-- ==== Sys2Proof/Word.lean ====
section
/-! DEFINITION. The words of the block: bytes, and the words that select an operation, each with the place
it arrives at. -/

namespace Sys2Proof

/-- One byte: a frame register, a window register, host write data (spec/10_state.md R10, R20). -/
abbrev Byte := BitVec 8

/-- The word that selects an operation, and where it arrives (spec/30_encoding.md R63, R64, R70). The table's four formats
are four places of the block, not one instruction stream, so a bare number has a meaning only beside its place. -/
inductive Code where
  /-- Format SEQ: the sequencer word `phase ‖ sub` (R63). -/
  | seq (w : BitVec 6)
  /-- Format HOSTW: a host write of `data` to window address `addr` (R50, R64). -/
  | hostWrite (addr : BitVec 4) (data : Byte)
  /-- Format HOSTR: a host read; the word is the window address (R83). -/
  | hostRead (addr : BitVec 4)
  /-- Format FUNC, `BITDEC`: `eeeeeeee` (R70). -/
  | bitdec (w : BitVec 8)
  /-- Format FUNC, `PACK`: `nnnnnnb` (R70). -/
  | pack (w : BitVec 7)
  /-- Format FUNC, `CHKSUM`: the 40 bits of R68. -/
  | chksum (w : BitVec 40)
  deriving DecidableEq, Repr

end Sys2Proof
end

