-- ==== Sys2Proof/Syntax.lean ====
section
/-! DEFINITION. The instructions: one constructor per row of spec/opcode_table.json (spec/30_encoding.md R63). -/

namespace Sys2Proof

/-- The 12 micro-operations the sequencer word selects, the two host operations and the three pure functions. -/
inductive Instr where
  /-- `IDLE.WAIT` (spec/40_host_commands.md R82). -/
  | idleWait
  /-- `START.DRIVE` (spec/41_handshake.md R91). -/
  | startDrive
  /-- `START.HOLD` (R92). -/
  | startHold
  /-- `RELEASE.HIGH` (R93). -/
  | releaseHigh
  /-- `RELEASE.FLOAT` (R94). -/
  | releaseFloat
  /-- `RELEASE.POLL` (R95). -/
  | releasePoll
  /-- `ACKHIGH.POLL` (R96). -/
  | ackhighPoll
  /-- `ACKLOW.POLL` (R97). -/
  | acklowPoll
  /-- `BITHIGH.POLL` (spec/42_bitstream.md R102). -/
  | bithighPoll
  /-- `PULSE.POLL` (R103). -/
  | pulsePoll
  /-- `COMPLETE.HOLD` (spec/43_checksum.md R117). -/
  | completeHold
  /-- `FAILED.HOLD` (R118). -/
  | failedHold
  /-- `CMD_START` (spec/40_host_commands.md R80, R81). -/
  | cmdStart
  /-- `HOST.RD addr` (R83). -/
  | hostRd (addr : BitVec 4)
  /-- `BITDEC(e)` (spec/42_bitstream.md R104). -/
  | bitdec (e : BitVec 8)
  /-- `PACK(F, n, b)`, its frame being the frame buffer (R105). -/
  | pack (n : BitVec 6) (b : Bool)
  /-- `CHKSUM(F)` of five given bytes, `humidityInt` first (spec/43_checksum.md R115, spec/30_encoding.md R68). -/
  | chksum (h g t u c : Byte)
  deriving DecidableEq, Repr

end Sys2Proof
end

