-- ==== Sys2Proof/WellFormed.lean ====
section
/-! DEFINITION. Which instructions the spec gives a meaning to. -/

namespace Sys2Proof

/-- The largest stream position is 39: `n` of 40 to 63 "is given no meaning" (spec/42_bitstream.md R105). Every other operand
of every row may take every value of its width. -/
def Instr.wellFormed : Instr → Bool
  | .pack n _ => decide (n.toNat < 40)
  | .idleWait => true
  | .startDrive => true
  | .startHold => true
  | .releaseHigh => true
  | .releaseFloat => true
  | .releasePoll => true
  | .ackhighPoll => true
  | .acklowPoll => true
  | .bithighPoll => true
  | .pulsePoll => true
  | .completeHold => true
  | .failedHold => true
  | .cmdStart => true
  | .hostRd _ => true
  | .bitdec _ => true
  | .chksum _ _ _ _ _ => true

end Sys2Proof
end

