-- ==== Sys2Proof/Decode.lean ====
section
/-! DEFINITION. The decoder, total on every word of every format and refusing by name, and the encoder
(spec/30_encoding.md R63, R64, R70, R71). -/

namespace Sys2Proof

/-- Why a word selects no operation. -/
inductive DecodeError where
  /-- A reserved sequencer word (spec/30_encoding.md R71). -/
  | reservedSeq
  /-- A host write that is no CMD_START: "any other write changes nothing" (spec/20_memory.md R50). -/
  | notACommand
  /-- A PACK word whose position is 40 or more (spec/42_bitstream.md R105). -/
  | framePosition
  deriving DecidableEq, Repr

/-- `phase ‖ sub` (spec/30_encoding.md R63). -/
def seqWord (phase : BitVec 4) (sub : BitVec 2) : BitVec 6 := phase ++ sub

/-- `SEQ[5:2]` (R63). -/
def seqPhase (w : BitVec 6) : BitVec 4 := w.extractLsb' 2 4

/-- `SEQ[1:0]` (R63). -/
def seqSub (w : BitVec 6) : BitVec 2 := w.extractLsb' 0 2

/-- The op map, R63: "Exactly 12 values of `SEQ` are legal". -/
def decodeSeq (w : BitVec 6) : Except DecodeError Instr :=
  match w.toNat with
  | 0x00 => .ok .idleWait
  | 0x04 => .ok .startDrive
  | 0x05 => .ok .startHold
  | 0x08 => .ok .releaseHigh
  | 0x09 => .ok .releaseFloat
  | 0x0A => .ok .releasePoll
  | 0x0C => .ok .ackhighPoll
  | 0x10 => .ok .acklowPoll
  | 0x14 => .ok .bithighPoll
  | 0x18 => .ok .pulsePoll
  | 0x1C => .ok .completeHold
  | 0x20 => .ok .failedHold
  | _ => .error .reservedSeq

/-- CMD_START is a write to `CTRL` (address 0x0) whose data matches `rrrrrrr1`; no other write is a command (R50, R64). -/
def decodeHostWrite (addr : BitVec 4) (data : Byte) : Except DecodeError Instr :=
  if addr = 0x0#4 ∧ data.getLsbD 0 = true then .ok .cmdStart else .error .notACommand

/-- `nnnnnnb`: bits 6:1 the position, bit 0 the bit (R70). -/
def decodePack (w : BitVec 7) : Except DecodeError Instr :=
  if (w.extractLsb' 1 6).toNat < 40 then .ok (.pack (w.extractLsb' 1 6) (w.getLsbD 0))
  else .error .framePosition

/-- The 40 bits of R68, `humidityInt` in the high byte (spec/20_memory.md R43). -/
def decodeChksum (w : BitVec 40) : Instr :=
  .chksum (w.extractLsb' 32 8) (w.extractLsb' 24 8) (w.extractLsb' 16 8) (w.extractLsb' 8 8) (w.extractLsb' 0 8)

/-- The operation a word selects at the place it arrives at. -/
def decode : Code → Except DecodeError Instr
  | .seq w => decodeSeq w
  | .hostWrite addr data => decodeHostWrite addr data
  | .hostRead addr => .ok (.hostRd addr)
  | .bitdec w => .ok (.bitdec w)
  | .pack w => decodePack w
  | .chksum w => .ok (decodeChksum w)

/-- The word of an instruction, from the same tables; the ignored bits 7:1 of CMD_START's data are written 0. -/
def encode : Instr → Code
  | .idleWait => .seq 0x00#6
  | .startDrive => .seq 0x04#6
  | .startHold => .seq 0x05#6
  | .releaseHigh => .seq 0x08#6
  | .releaseFloat => .seq 0x09#6
  | .releasePoll => .seq 0x0A#6
  | .ackhighPoll => .seq 0x0C#6
  | .acklowPoll => .seq 0x10#6
  | .bithighPoll => .seq 0x14#6
  | .pulsePoll => .seq 0x18#6
  | .completeHold => .seq 0x1C#6
  | .failedHold => .seq 0x20#6
  | .cmdStart => .hostWrite 0x0#4 0x01#8
  | .hostRd addr => .hostRead addr
  | .bitdec e => .bitdec e
  | .pack n b => .pack (n ++ BitVec.ofBool b)
  | .chksum h g t u c => .chksum (h ++ g ++ t ++ u ++ c)

/-- Whether a word selects an operation at all. -/
def Code.selects (c : Code) : Bool :=
  match decode c with
  | .ok _ => true
  | .error _ => false

/-- DESIGN CHOICE (log 8): the places a bare number of one byte may be meant for, in the order in which the opcode table
names the formats. The formats overlap as numbers, so the first place at which the number selects an operation is taken. -/
def byteCodes (w : Nat) : List Code :=
  (if w < 64 then [Code.seq (BitVec.ofNat 6 w)] else []) ++
  [Code.hostWrite 0x0#4 (BitVec.ofNat 8 w)] ++
  (if w < 16 then [Code.hostRead (BitVec.ofNat 4 w)] else []) ++
  (if w < 128 then [Code.pack (BitVec.ofNat 7 w)] else []) ++
  [Code.bitdec (BitVec.ofNat 8 w)]

/-- The place and word meant by a row's number `w` of `nbits` bits: 6, 4, 7 and 40 bits name one format each, 8 bits (a
format's width in whole bytes) any of the others (log 8). -/
def codeOfTableWord (nbits w : Nat) : Option Code :=
  if nbits = 40 then some (.chksum (BitVec.ofNat 40 w))
  else if nbits = 6 then some (.seq (BitVec.ofNat 6 w))
  else if nbits = 4 then some (.hostRead (BitVec.ofNat 4 w))
  else if nbits = 7 then some (.pack (BitVec.ofNat 7 w))
  else if nbits = 8 then (byteCodes w).find? Code.selects
  else none

/-- The instruction the decoder reads from a row's number, numbered as spec/opcode_table.json numbers its bits. -/
def decodeTableWord (nbits w : Nat) : Option Instr :=
  match codeOfTableWord nbits w with
  | none => none
  | some c =>
    match decode c with
    | .ok i => some i
    | .error _ => none

end Sys2Proof
end

