-- ==== Sys2Proof/Machine/Agents.lean ====
section
/-! DEFINITION. The agents outside the sequencer, seen from the block: levels, directions, and the steps each agent can
take (spec/00_scope.md R9, spec/20_memory.md R52). -/

namespace Sys2Proof.Machine

/-- A level of the data line (spec/30_encoding.md R62: low 0, high 1). -/
inductive Level where
  | low
  | high
  deriving DecidableEq, Repr, Inhabited

/-- The direction of the data line's pin (R62: `IN` 0, `OUT` 1). -/
inductive Dir where
  | input
  | output
  deriving DecidableEq, Repr, Inhabited

/-- One step of one agent. "Steps of different agents are interleaved, never simultaneous" (spec/60_exceptions.md R131). -/
inductive Move where
  /-- CORE: the op selected by `SEQ` executes (spec/10_state.md R16). -/
  | core
  /-- TIMER: one increment (spec/60_exceptions.md R139). -/
  | tick
  /-- LINE: the data line takes a level (spec/10_state.md R29). -/
  | line (v : Level)
  /-- DELAY: the pending delay completes (spec/60_exceptions.md R142). -/
  | delayDone
  /-- HOST: `MemWrite(addr, 1, v)` (spec/20_memory.md R50). -/
  | hostWrite (addr : BitVec 4) (v : Byte)
  /-- HOST: `MemRead(addr, 1)` (R50). -/
  | hostRead (addr : BitVec 4)
  /-- The model's own (log 7): BITDEC of an operand word is evaluated. -/
  | evalBitdec (w : BitVec 8)
  /-- The model's own (log 7): PACK of an operand word and the frame buffer is evaluated. -/
  | evalPack (w : BitVec 7)
  /-- The model's own (log 7): CHKSUM of a 40-bit word is evaluated. -/
  | evalChksum (w : BitVec 40)
  /-- One step with `rst` asserted (spec/70_reset_and_hazards.md R150). -/
  | rst
  deriving DecidableEq, Repr, Inhabited

end Sys2Proof.Machine
end

