-- ==== Sys2Proof/Config.lean ====
section
/-! DEFINITION. What an implementation fixes, and the free values: the parameters of spec/00_scope.md R7, and constants
with no body for everything the spec leaves to a draw. -/

namespace Sys2Proof

open Machine

/-- The numeric parameters of spec/00_scope.md R7, every one by its name there. The model carries them beside the state so that
a statement about every state is a statement about every parameter set; no step changes them (log 2). Tick counts are
numbers: their width is itself a parameter. -/
structure Params where
  /-- `TICK_US`, nominal microseconds of a tick: informative, no rule reads it. -/
  tickUs : Nat
  /-- `TICK_W`, the width of the timer's counter in bits. -/
  tickW : Nat
  /-- `T_BIT`, BitThreshold, in ticks. -/
  tBit : Nat
  /-- `T_BITWAIT`, the budget of AwaitBitHigh, in ticks. -/
  tBitWait : Nat
  /-- `T_ACK`, the budget of AwaitAckHigh and AwaitAckLow, in ticks; OPEN in the source (spec/90_conflicts.md C1). -/
  tAck : Nat
  /-- `START_LOW_MS`, the argument of the delay request; 8 bits as the port `dly_ms` (spec/60_exceptions.md R144; log 6). -/
  startLowMs : BitVec 8
  deriving DecidableEq, Repr

/-- `TICK_MAX`, "largest counter value, `2^TICK_W - 1`" (R7). -/
def Params.tickMax (p : Params) : Nat := 2 ^ p.tickW - 1

/-- A count as the counter shows it: modulo `2^TICK_W` (spec/20_memory.md R56). -/
def Params.wrap (p : Params) (c : Nat) : Nat := c % 2 ^ p.tickW

/-- The defaults of R7. -/
def Config.defaults : Params :=
  { tickUs := 4, tickW := 8, tBit := 7, tBitWait := 13, tAck := 22, startLowMs := 20#8 }

/-- A legal parameter set: every threshold below the wrap-around ceiling (R8). A premise of the configuration, so of every
reachable state (`Reachable`). -/
abbrev Params.Legal (p : Params) : Prop :=
  p.tBit < p.tickMax ∧ p.tBitWait < p.tickMax ∧ p.tAck < p.tickMax

/-- `LED_MAP`, from phase code to the three status lines: an open parameter with no default (R7, decision D6; log 5). -/
opaque Config.ledMap : BitVec 4 → BitVec 3

/-- The move taken when no scheduled move is left: a draw (spec/20_memory.md R52; log 1). -/
opaque Config.freeMove : Nat → Move

/-- The timer's count after a step with `rst` asserted, up to the wrap: unspecified (spec/10_state.md R34; log 4). -/
opaque Config.freeTicks : Nat → Nat

/-- The line's level after a step with `rst` asserted: unspecified (R34; log 4). -/
opaque Config.freeLine : Nat → Level

/-- The DELAY agent's own argument after a step with `rst` asserted: "the platform's affair"
(spec/70_reset_and_hazards.md R151; log 4). -/
opaque Config.freeDelay : Nat → BitVec 8

end Sys2Proof
end

