-- ==== Sys2Proof/Machine/State.lean ====
section
/-! DEFINITION. The state of the machine, why a step can stop, and the state after reset (spec/10_state.md). -/

namespace Sys2Proof.Machine

/-- The frame buffer, five bytes under the spec's own names, `F[0]` first (R10). -/
structure Frame where
  humidityInt : Byte
  humidityFrac : Byte
  tempInt : Byte
  tempFrac : Byte
  checksum : Byte
  deriving DecidableEq, Repr

/-- `out_tag` (R17); the reserved code 3 cannot be held. -/
inductive Tag where
  | none
  | frame
  | timeout
  deriving DecidableEq, Repr

/-- `out_stage` (R17); the reserved code 3 cannot be held. -/
inductive Stage where
  | ackHigh
  | ackLow
  | bitHigh
  deriving DecidableEq, Repr

/-- What the last host read or function evaluation handed to whoever asked for it: the model's own (log 7). -/
inductive Answer where
  | nothing
  /-- The byte of a HOST.RD. -/
  | byte (v : Byte)
  /-- The bit of a BITDEC or a CHKSUM. -/
  | bit (b : Bool)
  /-- The frame of a PACK. -/
  | frame (f : Frame)
  deriving DecidableEq, Repr

/-- Everything the spec gives the machine (R10 to R32), then the model's own fields. -/
structure State where
  /-- The current phase, by its code (R13; codes spec/30_encoding.md R60). -/
  phase : BitVec 4
  /-- The micro-step inside Start and Release (R14). -/
  sub : BitVec 2
  /-- The bits decoded so far (R15). -/
  n : BitVec 6
  /-- The frame buffer `F` (R10). -/
  frame : Frame
  /-- `out_tag` (R17). -/
  outTag : Tag
  /-- `out_stage` (R17). -/
  outStage : Stage
  /-- The direction latch of the data line (R27). -/
  dir : Dir
  /-- The output level latch of the data line (R27). -/
  lvl : Level
  /-- The status indicator lines (R28). -/
  led : BitVec 3
  /-- The level on the data line, as the core's input sees it; environment state (R29). -/
  line : Level
  /-- The Timer service's counter (R30), a number of `TICK_W` bits: at most `TICK_MAX` in every reachable state. -/
  ticks : Nat
  /-- `dly_pending` of the delay primitive (R31). -/
  dlyPending : Bool
  /-- The argument last handed to the DELAY agent (spec/60_exceptions.md R142; log 12). -/
  dlyMs : BitVec 8
  /-- Configuration, not state of the spec: constant in every step (spec/00_scope.md R7, R9; log 2). -/
  params : Params
  /-- The model's own: the last answer handed out (log 7). -/
  answer : Answer
  /-- The model's own: the agents' scheduled moves, the next one first (log 1). -/
  moves : List Move
  /-- The model's own: how many free values have been drawn (log 20). -/
  draws : Nat
  deriving DecidableEq, Repr

/-- Why the machine stops. All three are states or operands "the spec gives ... no meaning"
(spec/93_implementation_defined.md U5, `stuck`). -/
inductive Fault where
  /-- Raised by `step` where `SEQ` holds one of the 52 reserved values (spec/30_encoding.md R71). Safe: no run
  reaches it. -/
  | reservedSeq
  /-- Raised by `step`, and by PULSE.POLL before it would pack, where `n` holds 40 to 63 (R71). Safe: no run reaches
  it. -/
  | reservedBitCount
  /-- Raised by PACK at a position of 40 or more (spec/42_bitstream.md R105). Safe: the spec gives it no meaning. -/
  | framePosition
  deriving DecidableEq, Repr

/-- Why an instruction has no meaning. -/
inductive Refusal where
  /-- Raised by an arm of `exec` whose instruction is not modelled yet; safe. -/
  | notModelled (mnemonic : String)
  deriving DecidableEq, Repr

/-- The frame with every bit zero. -/
def Frame.zero : Frame :=
  { humidityInt := 0x00#8, humidityFrac := 0x00#8, tempInt := 0x00#8, tempFrac := 0x00#8, checksum := 0x00#8 }

/-- The machine right after reset (R34). `ticks`, `line` and `dlyMs`, which the spec leaves unspecified, take the values
of log 3 and log 12; the parameters take their defaults. -/
def State.reset : State :=
  { phase := 0#4
    sub := 0#2
    n := 0#6
    frame := Frame.zero
    outTag := .none
    outStage := .ackHigh
    dir := .input
    lvl := .high
    led := Config.ledMap 0#4
    line := .low
    ticks := 0
    dlyPending := false
    dlyMs := 0#8
    params := Config.defaults
    answer := .nothing
    moves := []
    draws := 0 }

end Sys2Proof.Machine
end

