-- ==== Sys2Proof/Machine/Operands.lean ====
section
/-! DEFINITION. What an operation reads: the codes of the encoded fields, the device reads, and the bytes and bits of the
frame buffer (spec/30_encoding.md R60 to R62, spec/20_memory.md R42, R43, R55, R56). -/

namespace Sys2Proof.Machine

/-- Phase codes, spec/30_encoding.md R60. -/
@[simp] abbrev Phase.idle : BitVec 4 := 0#4
@[simp] abbrev Phase.start : BitVec 4 := 1#4
@[simp] abbrev Phase.release : BitVec 4 := 2#4
@[simp] abbrev Phase.ackhigh : BitVec 4 := 3#4
@[simp] abbrev Phase.acklow : BitVec 4 := 4#4
@[simp] abbrev Phase.bithigh : BitVec 4 := 5#4
@[simp] abbrev Phase.pulse : BitVec 4 := 6#4
@[simp] abbrev Phase.complete : BitVec 4 := 7#4
@[simp] abbrev Phase.failed : BitVec 4 := 8#4

/-- Outcome codes, R61. -/
def Tag.code : Tag → BitVec 2
  | .none => 0#2
  | .frame => 1#2
  | .timeout => 2#2

/-- Stage codes, R61. -/
def Stage.code : Stage → BitVec 2
  | .ackHigh => 0#2
  | .ackLow => 1#2
  | .bitHigh => 2#2

/-- Level codes, R62. -/
def Level.code : Level → BitVec 1
  | .low => 0#1
  | .high => 1#1

/-- Direction codes, R62. -/
def Dir.code : Dir → BitVec 1
  | .input => 0#1
  | .output => 1#1

/-- The sequencer word `SEQ = phase ‖ sub` (R63). -/
def State.seq (s : State) : BitVec 6 := seqWord s.phase s.sub

/-- `ReadLevel()`: the level at the step, no filter (spec/20_memory.md R55). -/
def readLevel (s : State) : Level := s.line

/-- `ElapsedTicks()` (R56). -/
def elapsedTicks (s : State) : Nat := s.ticks

/-- `DelayDone()` (spec/10_state.md R31). -/
def delayDone (s : State) : Bool := !s.dlyPending

/-- The frame byte a stream position lies in, `n div 8` (spec/10_state.md R15). -/
def byteIndex (n : Nat) : Nat := n / 8

/-- The bit within that byte, `7 - (n mod 8)`: most significant bit first (spec/20_memory.md R43). -/
def bitPosition (n : Nat) : Nat := 7 - n % 8

/-- `F[i]`; the spec gives an index above 4 no meaning and no rule uses one. -/
def Frame.byte (f : Frame) : Nat → Byte
  | 0 => f.humidityInt
  | 1 => f.humidityFrac
  | 2 => f.tempInt
  | 3 => f.tempFrac
  | 4 => f.checksum
  | _ => 0#8

/-- `F[i] <- v`. -/
def Frame.setByte (f : Frame) (i : Nat) (v : Byte) : Frame :=
  match i with
  | 0 => { f with humidityInt := v }
  | 1 => { f with humidityFrac := v }
  | 2 => { f with tempInt := v }
  | 3 => { f with tempFrac := v }
  | 4 => { f with checksum := v }
  | _ => f

/-- The bit of the frame at a stream position (R43). -/
def Frame.streamBit (f : Frame) (n : Nat) : Bool := (f.byte (byteIndex n)).getLsbD (bitPosition n)

/-- `W40 = F[0] ‖ F[1] ‖ F[2] ‖ F[3] ‖ F[4]` (R43). -/
def Frame.word40 (f : Frame) : BitVec 40 :=
  f.humidityInt ++ f.humidityFrac ++ f.tempInt ++ f.tempFrac ++ f.checksum

end Sys2Proof.Machine
end

