-- ==== Sys2Proof/Machine/Flags.lean ====
section
/-! DEFINITION. Every flag computation: the threshold comparator, the checksum validator, the derived flags and the status
register's byte (spec/42_bitstream.md R104, spec/43_checksum.md R115, spec/10_state.md R18, R22). -/

namespace Sys2Proof.Machine

/-- `BITDEC(e)` with threshold `t`: 0 for `e <= t`, 1 for `e > t`, unsigned (R104). -/
def bitdec (t e : Nat) : Bool := decide (t < e)

/-- `CHKSUM(F)`: whether the exact sum of the first four bytes, modulo 256, is the fifth (R115). -/
def chksum (f : Frame) : Bool :=
  decide ((f.humidityInt.toNat + f.humidityFrac.toNat + f.tempInt.toNat + f.tempFrac.toNat) % 256 = f.checksum.toNat)

/-- `BUSY`: `phase` is none of Idle, Complete, Failed (R18). -/
def busy (s : State) : Bool :=
  decide (s.phase ≠ Phase.idle) && decide (s.phase ≠ Phase.complete) && decide (s.phase ≠ Phase.failed)

/-- `DONE` (R18). -/
def done (s : State) : Bool := decide (s.outTag ≠ .none)

/-- `ERR` (R18). -/
def err (s : State) : Bool := decide (s.outTag = .timeout)

/-- `CHK_OK`: the checksum verdict, gated on a completed frame (R18; spec/43_checksum.md R120). -/
def chkOk (s : State) : Bool := decide (s.outTag = .frame) && chksum s.frame

/-- `STATUS` read data, `00ggCEDB` (spec/30_encoding.md R65). -/
def statusByte (s : State) : Byte :=
  0#2 ++ s.outStage.code ++ BitVec.ofBool (chkOk s) ++ BitVec.ofBool (err s) ++ BitVec.ofBool (done s) ++
    BitVec.ofBool (busy s)

end Sys2Proof.Machine
end

