-- ==== Sys2Proof/Machine/Ops.lean ====
section
/-! DEFINITION. The operations every meaning is built from: the device primitives, the poll, the frame bit write, the
timeout abort and the start of an attempt, the host window, and the steps of the agents outside the core. -/

namespace Sys2Proof.Machine

/-- What executing an instruction answers. -/
abbrev Result := Host.Outcome State Fault Refusal

/-- `SetLevel(v)` (spec/20_memory.md R55). -/
def setLevel (v : Level) (s : State) : State := { s with lvl := v }

/-- `SetDirection(d)` (R55). -/
def setDirection (d : Dir) (s : State) : State := { s with dir := d }

/-- `TimerReset()` (R56). -/
def timerReset (s : State) : State := { s with ticks := 0 }

/-- `DelayRequest(ms)`: the delay is pending and the DELAY agent holds `ms` (spec/60_exceptions.md R142; log 12). -/
def delayRequest (ms : BitVec 8) (s : State) : State := { s with dlyPending := true, dlyMs := ms }

/-- `SetLed(P)` (R143). -/
def setLed (p : BitVec 4) (s : State) : State := { s with led := Config.ledMap p }

/-- `phase <- p ; SetLed(p)`: every op that changes `phase` does both (spec/41_handshake.md R90 b). -/
def changePhase (p : BitVec 4) (s : State) : State := setLed p { s with phase := p }

/-- `sub <- k`: a sub-step inside Start or Release, which leaves `led` alone (R143). -/
def setSub (k : BitVec 2) (s : State) : State := { s with sub := k }

/-- `phase <- p ; sub <- 0 ; SetLed(p)`: the transitions that start from a non-zero `sub`, or from any state. -/
def enterPhase (p : BitVec 4) (s : State) : State := changePhase p (setSub 0#2 s)

/-- The model's own: hand an answer to whoever asked (log 7). -/
def giveAnswer (a : Answer) (s : State) : State := { s with answer := a }

/-- `F[0..4] <- 0 ; n <- 0`, one atomic write (spec/20_memory.md R46). -/
def clearProgress (s : State) : State := { s with frame := Frame.zero, n := 0#6 }

/-- `out_tag <- t ; out_stage <- g`. -/
def setOutcome (t : Tag) (g : Stage) (s : State) : State := { s with outTag := t, outStage := g }

/-- `raise Timeout(stage)`, the block's one exception: the outcome names the stage, all progress is discarded and the
block parks in Failed. Nothing is saved, and `dir`, `lvl`, `ticks` and `dly_pending` are left alone
(spec/60_exceptions.md R132). -/
def raiseTimeout (g : Stage) (s : State) : State :=
  enterPhase Phase.failed (clearProgress (setOutcome .timeout g s))

/-- The only way out of the aborted state, and of the other two resting phases: "There is no return instruction and
nothing to restore" (R134), a new attempt starts with all state cleared (spec/40_host_commands.md R80). -/
def beginAttempt (s : State) : State :=
  enterPhase Phase.start (clearProgress (setOutcome .none .ackHigh s))

/-- What one poll answers (spec/20_memory.md R57). -/
inductive PollResult where
  | hit
  | wait
  | timeout
  deriving DecidableEq, Repr

/-- `Poll(E, T)`: the line first; the timer only where the line is not at the awaited level and there is a budget, which a
reading equal to it does not exceed (R57). -/
def poll (awaited : Level) (budget : Option Nat) (s : State) : PollResult :=
  if readLevel s = awaited then .hit
  else
    match budget with
    | none => .wait
    | some t => if t < elapsedTicks s then .timeout else .wait

/-- One bit of a byte assigned. -/
def setBit (x : Byte) (k : Nat) (b : Bool) : Byte :=
  if b then x ||| (1#8 <<< k) else x &&& ~~~(1#8 <<< k)

/-- `PACK(F, n, b)`: the bit at stream position `n` assigned, the other 39 left alone (spec/42_bitstream.md R105). -/
def pack (f : Frame) (n : Nat) (b : Bool) : Frame :=
  f.setByte (byteIndex n) (setBit (f.byte (byteIndex n)) (bitPosition n) b)

/-- `MemRead(addr, 1)`: the byte of the window in the current state (spec/20_memory.md R50; spec/10_state.md R20 to
R26). -/
def memRead (s : State) (addr : BitVec 4) : Byte :=
  match addr.toNat with
  | 0 => 0x00#8
  | 1 => statusByte s
  | 2 => 0#2 ++ s.phase ++ s.sub
  | 3 => 0#2 ++ s.n
  | 4 => s.frame.byte 0
  | 5 => s.frame.byte 1
  | 6 => s.frame.byte 2
  | 7 => s.frame.byte 3
  | 8 => s.frame.byte 4
  | _ => 0x00#8

/-- A TIMER step: the counter wraps to 0 after `TICK_MAX` and never saturates (spec/60_exceptions.md R139). -/
def timerTick (s : State) : State := { s with ticks := s.params.wrap (s.ticks + 1) }

/-- A LINE step (spec/10_state.md R29; log 11). -/
def lineChange (v : Level) (s : State) : State := { s with line := v }

/-- A DELAY step; with nothing pending it changes nothing (R142; log 13). -/
def delayComplete (s : State) : State := { s with dlyPending := false }

/-- A step with `rst` asserted: every register takes its reset value (spec/70_reset_and_hazards.md R150; spec/10_state.md
R34). What R34 calls unspecified is drawn (log 4); the model's own fields stay. -/
def applyReset (s : State) : State :=
  { State.reset with
    line := Config.freeLine s.draws
    ticks := s.params.wrap (Config.freeTicks s.draws)
    dlyMs := Config.freeDelay s.draws
    params := s.params
    answer := s.answer
    moves := s.moves
    draws := s.draws + 1 }

/-- The move the machine takes next: the first scheduled one, or a draw where none is scheduled (log 1). -/
def nextMove (s : State) : Move :=
  match s.moves with
  | [] => Config.freeMove s.draws
  | m :: _ => m

/-- The state with that move taken off the schedule, or with the draw counted. -/
def takeMove (s : State) : State :=
  match s.moves with
  | [] => { s with draws := s.draws + 1 }
  | _ :: rest => { s with moves := rest }

/-- The reserved values that leave a state without any step but `rst` (spec/30_encoding.md R71;
spec/93_implementation_defined.md U5; log 9). -/
def reservedFault (s : State) : Option Fault :=
  match decodeSeq s.seq with
  | .error _ => some .reservedSeq
  | .ok _ => if s.n.toNat < 40 then none else some .reservedBitCount

end Sys2Proof.Machine
end

