-- ==== Sys2Proof/Machine/BitStream.lean ====
section
/-! DEFINITION. The bit-stream ops and their two pure functions (spec/42_bitstream.md). -/

namespace Sys2Proof.Machine

/-- `BITHIGH.POLL` (R102). -/
def execBithighPoll (s : State) : Result :=
  match poll .high (some s.params.tBitWait) s with
  | .hit => .next (timerReset (changePhase Phase.pulse s))
  | .wait => .next s
  | .timeout => .next (raiseTimeout .bitHigh s)

/-- `F <- PACK(F, n, BITDEC(ElapsedTicks()))`: the one timer read of a pulse (R103). -/
def storeBit (s : State) : State :=
  { s with frame := pack s.frame s.n.toNat (bitdec s.params.tBit (elapsedTicks s)) }

/-- `PULSE.POLL`: an unbounded wait for low, then the bit is decoded and stored; the last bit completes the frame and
leaves the timer running (R103). `n` of 40 or more has no meaning (R105; log 9). -/
def execPulsePoll (s : State) : Result :=
  match readLevel s with
  | .high => .next s
  | .low =>
    if s.n.toNat < 39 then
      .next (timerReset (changePhase Phase.bithigh { storeBit s with n := s.n + 1#6 }))
    else if s.n.toNat = 39 then
      .next (changePhase Phase.complete (setOutcome .frame .ackHigh (storeBit s)))
    else .fault .reservedBitCount

/-- The table's row `BITDEC`: the comparator's bit is handed out (R104; log 7). -/
def execBitdec (e : BitVec 8) (s : State) : Result :=
  .next (giveAnswer (.bit (bitdec s.params.tBit e.toNat)) s)

/-- The table's row `PACK`: the packed frame is handed out, the frame buffer is only read (R105; spec/10_state.md R11;
log 7). -/
def execPack (n : BitVec 6) (b : Bool) (s : State) : Result :=
  if n.toNat < 40 then .next (giveAnswer (.frame (pack s.frame n.toNat b)) s) else .fault .framePosition

end Sys2Proof.Machine
end

