-- ==== Sys2Proof/Machine/Checksum.lean ====
section
/-! DEFINITION. The checksum validator's row and the two terminal ops (spec/43_checksum.md). -/

namespace Sys2Proof.Machine

/-- The table's row `CHKSUM`: the verdict on five given bytes is handed out (R115; log 7). -/
def execChksum (h g t u c : Byte) (s : State) : Result :=
  .next (giveAnswer
    (.bit (chksum { humidityInt := h, humidityFrac := g, tempInt := t, tempFrac := u, checksum := c })) s)

/-- `COMPLETE.HOLD`: "(no state change)" (R117). -/
def execCompleteHold (s : State) : Result := .next s

/-- `FAILED.HOLD`: "(no state change)" (R118). -/
def execFailedHold (s : State) : Result := .next s

end Sys2Proof.Machine
end

