-- ==== Sys2Proof/Machine/Handshake.lean ====
section
/-! DEFINITION. The handshake ops (spec/41_handshake.md). -/

namespace Sys2Proof.Machine

/-- `START.DRIVE`: level, direction, delay request and sub-step in one step (R91). -/
def execStartDrive (s : State) : Result :=
  .next (setSub 1#2 (delayRequest s.params.startLowMs (setDirection .output (setLevel .low s))))

/-- `START.HOLD`: to Release once the delay is done (R92). -/
def execStartHold (s : State) : Result :=
  if delayDone s then .next (enterPhase Phase.release s) else .next s

/-- `RELEASE.HIGH` (R93). -/
def execReleaseHigh (s : State) : Result :=
  .next (setSub 1#2 (setLevel .high s))

/-- `RELEASE.FLOAT` (R94). -/
def execReleaseFloat (s : State) : Result :=
  .next (setSub 2#2 (setDirection .input s))

/-- `RELEASE.POLL`: an unbounded wait for low (R95). -/
def execReleasePoll (s : State) : Result :=
  match poll .low none s with
  | .hit => .next (timerReset (enterPhase Phase.ackhigh s))
  | .wait => .next s
  | .timeout => .next s

/-- `ACKHIGH.POLL` (R96). -/
def execAckhighPoll (s : State) : Result :=
  match poll .high (some s.params.tAck) s with
  | .hit => .next (timerReset (changePhase Phase.acklow s))
  | .wait => .next s
  | .timeout => .next (raiseTimeout .ackHigh s)

/-- `ACKLOW.POLL` (R97). -/
def execAcklowPoll (s : State) : Result :=
  match poll .low (some s.params.tAck) s with
  | .hit => .next (timerReset (changePhase Phase.bithigh { s with n := 0#6 }))
  | .wait => .next s
  | .timeout => .next (raiseTimeout .ackLow s)

end Sys2Proof.Machine
end

