-- ==== Sys2Proof/Machine/HostOps.lean ====
section
/-! DEFINITION. The Idle op and the two host operations (spec/40_host_commands.md). -/

namespace Sys2Proof.Machine

/-- `IDLE.WAIT`: "(no state change)" (R82). -/
def execIdleWait (s : State) : Result := .next s

/-- `CMD_START`: begins an attempt when `BUSY = 0` (R80), is ignored when `BUSY = 1` (R81). -/
def execCmdStart (s : State) : Result :=
  if busy s then .next s else .next (beginAttempt s)

/-- `HOST.RD addr`: the byte is handed out, nothing of the block changes (R83). -/
def execHostRd (addr : BitVec 4) (s : State) : Result :=
  .next (giveAnswer (.byte (memRead s addr)) s)

end Sys2Proof.Machine
end

