-- ==== Sys2Proof/Machine/Dispatch.lean ====
section
/-! DEFINITION. One arm per instruction. -/

namespace Sys2Proof.Machine

def exec (i : Instr) (s : State) : Host.Outcome State Fault Refusal :=
  match i with
  -- spec/40_host_commands.md
  | .idleWait => Sys2Proof.Machine.execIdleWait s
  | .cmdStart => Sys2Proof.Machine.execCmdStart s
  | .hostRd addr => Sys2Proof.Machine.execHostRd addr s
  -- spec/41_handshake.md
  | .startDrive => Sys2Proof.Machine.execStartDrive s
  | .startHold => Sys2Proof.Machine.execStartHold s
  | .releaseHigh => Sys2Proof.Machine.execReleaseHigh s
  | .releaseFloat => Sys2Proof.Machine.execReleaseFloat s
  | .releasePoll => Sys2Proof.Machine.execReleasePoll s
  | .ackhighPoll => Sys2Proof.Machine.execAckhighPoll s
  | .acklowPoll => Sys2Proof.Machine.execAcklowPoll s
  -- spec/42_bitstream.md
  | .bithighPoll => Sys2Proof.Machine.execBithighPoll s
  | .pulsePoll => Sys2Proof.Machine.execPulsePoll s
  | .bitdec e => Sys2Proof.Machine.execBitdec e s
  | .pack n b => Sys2Proof.Machine.execPack n b s
  -- spec/43_checksum.md
  | .chksum h g t u c => Sys2Proof.Machine.execChksum h g t u c s
  | .completeHold => Sys2Proof.Machine.execCompleteHold s
  | .failedHold => Sys2Proof.Machine.execFailedHold s

end Sys2Proof.Machine
end

