-- ==== Sys2Proof/Machine/Moves.lean ====
section
/-! DEFINITION. What each agent's step does: the core's and the host's run a decoded instruction, the others are
operations (spec/00_scope.md R9, spec/20_memory.md R50, R52). -/

namespace Sys2Proof.Machine

/-- The word a move presents to the decoder, for the moves that run an instruction. -/
def fetch (m : Move) (s : State) : Option Code :=
  match m with
  | .core => some (.seq s.seq)
  | .hostWrite addr v => some (.hostWrite addr v)
  | .hostRead addr => some (.hostRead addr)
  | .evalBitdec w => some (.bitdec w)
  | .evalPack w => some (.pack w)
  | .evalChksum w => some (.chksum w)
  | .tick => none
  | .line _ => none
  | .delayDone => none
  | .rst => none

/-- A word executed: a host write that is no command changes nothing (R50), the words the spec gives no meaning stop
(log 9). -/
def runCode (c : Code) (s : State) : Result :=
  match decode c with
  | .ok i => exec i s
  | .error .notACommand => .next s
  | .error .reservedSeq => .fault .reservedSeq
  | .error .framePosition => .fault .framePosition

/-- One move, in a state that holds no reserved value. -/
def runMove (m : Move) (s : State) : Result :=
  match m with
  | .tick => .next (timerTick s)
  | .line v => .next (lineChange v s)
  | .delayDone => .next (delayComplete s)
  | .rst => .next (applyReset s)
  | .core => runCode (.seq s.seq) s
  | .hostWrite addr v => runCode (.hostWrite addr v) s
  | .hostRead addr => runCode (.hostRead addr) s
  | .evalBitdec w => runCode (.bitdec w) s
  | .evalPack w => runCode (.pack w) s
  | .evalChksum w => runCode (.chksum w) s

/-- One move in any state: a reserved value stops every agent, `rst` alone leaves such a state
(spec/93_implementation_defined.md U5; spec/41_handshake.md R99). -/
def takeStep (m : Move) (s : State) : Result :=
  if m = .rst then runMove m s
  else
    match reservedFault s with
    | some f => .fault f
    | none => runMove m s

/-- The state with a word placed where the next step finds it: a sequencer word in `phase` and `sub` with a core move
scheduled, any other word as the move that carries it (log 8, log 14). -/
def placeCode (c : Code) (s : State) : State :=
  match c with
  | .seq w => { s with phase := seqPhase w, sub := seqSub w, moves := .core :: s.moves }
  | .hostWrite addr v => { s with moves := .hostWrite addr v :: s.moves }
  | .hostRead addr => { s with moves := .hostRead addr :: s.moves }
  | .bitdec w => { s with moves := .evalBitdec w :: s.moves }
  | .pack w => { s with moves := .evalPack w :: s.moves }
  | .chksum w => { s with moves := .evalChksum w :: s.moves }

end Sys2Proof.Machine
end

