-- ==== Sys2Proof/Machine/Step.lean ====
section
/-! DEFINITION. One step of the machine: one move of one agent (spec/20_memory.md R46, R52). -/

namespace Sys2Proof.Machine

/-- The next agent's move is taken off the schedule and executed. -/
def step (s : State) : Host.Outcome State Fault Refusal :=
  takeStep (nextMove s) (takeMove s)

/-- `s` with the row's word placed where the next step runs it; a number of bits no row has changes nothing. -/
def State.withFetchWord (s : State) (nbits w : Nat) : State :=
  match codeOfTableWord nbits w with
  | some c => placeCode c s
  | none => s

end Sys2Proof.Machine
end

