-- ==== Sys2Proof/Machine/Ports.lean ====
section
/-! DEFINITION. The ports of spec/60_exceptions.md R144: what each carries in one step, as a function of the state the step
starts from and of the move it takes. `clk` is the step itself (log 15). -/

namespace Sys2Proof.Machine

/-- The values on the input ports. -/
structure InPorts where
  rst : Bool
  hAddr : BitVec 4
  hWe : Bool
  hWdata : Byte
  lineIn : BitVec 1
  tmrTicks : Nat
  dlyDone : Bool
  deriving DecidableEq, Repr

/-- The values on the output ports. -/
structure OutPorts where
  hRdata : Byte
  lineOut : BitVec 1
  lineOe : BitVec 1
  led : BitVec 3
  tmrClr : Bool
  dlyReq : Bool
  dlyMs : BitVec 8
  deriving DecidableEq, Repr

/-- The host write a step carries, if it carries one. -/
def Move.write? (m : Move) : Option (BitVec 4 × Byte) :=
  match m with
  | .hostWrite addr v => some (addr, v)
  | .core => none
  | .tick => none
  | .line _ => none
  | .delayDone => none
  | .hostRead _ => none
  | .evalBitdec _ => none
  | .evalPack _ => none
  | .evalChksum _ => none
  | .rst => none

/-- The address on `h_addr`: the accessed one, or whatever the host holds there in a step without a host access. -/
def Move.hAddr (held : BitVec 4) (m : Move) : BitVec 4 :=
  match m with
  | .hostWrite addr _ => addr
  | .hostRead addr => addr
  | .core => held
  | .tick => held
  | .line _ => held
  | .delayDone => held
  | .evalBitdec _ => held
  | .evalPack _ => held
  | .evalChksum _ => held
  | .rst => held

/-- The input ports; `addr` and `data` are what the host holds on its lines in a step without a host access. -/
def inPorts (addr : BitVec 4) (data : Byte) (m : Move) (s : State) : InPorts :=
  { rst := decide (m = .rst)
    hAddr := m.hAddr addr
    hWe := m.write?.isSome
    hWdata := (m.write?.map Prod.snd).getD data
    lineIn := s.line.code
    tmrTicks := s.ticks
    dlyDone := delayDone s }

/-- Whether the step that takes `m` executes an op of the core. -/
def executesOp (m : Move) (s : State) : Bool := decide (m = .core) && (reservedFault s).isNone

/-- `tmr_clr`: the step performs `TimerReset()` (R140 lists the five ops). -/
def timerCleared (m : Move) (s : State) : Bool :=
  executesOp m s &&
    if s.seq = 0x0A#6 then decide (s.line = .low)
    else if s.seq = 0x0C#6 then decide (s.line = .high)
    else if s.seq = 0x10#6 then decide (s.line = .low)
    else if s.seq = 0x14#6 then decide (s.line = .high)
    else if s.seq = 0x18#6 then decide (s.line = .low) && decide (s.n.toNat < 39)
    else false

/-- `dly_req`: the step performs `DelayRequest` (spec/41_handshake.md R91). -/
def delayRequested (m : Move) (s : State) : Bool := executesOp m s && decide (s.seq = 0x04#6)

/-- The output ports. -/
def outPorts (addr : BitVec 4) (m : Move) (s : State) : OutPorts :=
  { hRdata := memRead s (m.hAddr addr)
    lineOut := s.lvl.code
    lineOe := s.dir.code
    led := s.led
    tmrClr := timerCleared m s
    dlyReq := delayRequested m s
    dlyMs := s.params.startLowMs }

end Sys2Proof.Machine
end

