-- ==== Sys2Proof/Machine/Scenario.lean ====
section
/-! DEFINITION. Runs of given moves, and the scenario notation of spec/30_encoding.md R74. -/

namespace Sys2Proof.Machine

/-- The given moves taken one after the other, whatever is scheduled in the state; stops at the first fault or refusal. -/
def runMoves : List Move → State → Result
  | [], s => .next s
  | m :: ms, s =>
    match takeStep m s with
    | .next t => runMoves ms t
    | .fault f => .fault f
    | .refused r => .refused r

/-- A line of a scenario (R74); `k x (...)` is a list repeated. -/
inductive ScenarioLine where
  /-- `host W <addr>=v`. -/
  | hostW (addr : BitVec 4) (v : Byte)
  /-- `host R <addr> -> v`. -/
  | hostR (addr : BitVec 4) (v : Byte)
  /-- `step`. -/
  | coreStep
  /-- `delay done`. -/
  | delayDone
  /-- `poll s`: the timer is not read. -/
  | poll (level : Level)
  /-- `poll s@e`: the timer is read and returns `e`. -/
  | pollAt (level : Level) (e : Nat)
  deriving DecidableEq, Repr

/-- The moves a line stands for. A reading `e` is produced by as many increments as lead from the counter's present value
to it, modulo `2^TICK_W` (log 21). -/
def ScenarioLine.toMoves (l : ScenarioLine) (s : State) : List Move :=
  match l with
  | .hostW addr v => [.hostWrite addr v]
  | .hostR addr _ => [.hostRead addr]
  | .coreStep => [.core]
  | .delayDone => [.delayDone]
  | .poll level => [.line level, .core]
  | .pollAt level e => .line level :: (List.replicate (s.params.wrap (e + (2 ^ s.params.tickW - s.ticks))) .tick ++ [.core])

/-- Whether the state after a line is as the line expects: only `host R` expects anything. -/
def ScenarioLine.expected (l : ScenarioLine) (t : State) : Bool :=
  match l with
  | .hostW _ _ => true
  | .hostR _ v => decide (t.answer = .byte v)
  | .coreStep => true
  | .delayDone => true
  | .poll _ => true
  | .pollAt _ _ => true

/-- A scenario run from a state: the end state, or none at the first stop or unmet expectation. -/
def runScenario : List ScenarioLine → State → Option State
  | [], s => some s
  | l :: ls, s =>
    match runMoves (l.toMoves s) s with
    | .next t => if l.expected t then runScenario ls t else none
    | .fault _ => none
    | .refused _ => none

end Sys2Proof.Machine
end

