-- ==== Sys2Proof/Safety.lean ====
section
/-! DEFINITION. What counts as a safe state: the invariants of spec/10_state.md R35, one definition per item, and the vocabulary
in which hazards and waits are stated (spec/70_reset_and_hazards.md). -/

namespace Sys2Proof.Machine

/-- R35 item 1: `(phase, sub)` is one of the 12 pairs of R63. -/
abbrev PositionLegal (s : State) : Prop :=
  s.seq ∈ [0x00#6, 0x04#6, 0x05#6, 0x08#6, 0x09#6, 0x0A#6, 0x0C#6, 0x10#6, 0x14#6, 0x18#6, 0x1C#6, 0x20#6]

/-- R35 item 2. -/
abbrev CountLegal (s : State) : Prop :=
  (s.phase ≠ Phase.bithigh → s.phase ≠ Phase.pulse → s.phase ≠ Phase.complete → s.n = 0#6) ∧
    s.n.toNat ≤ 39 ∧ (s.phase = Phase.complete → s.n = 39#6)

/-- R35 item 3. -/
abbrev TagLegal (s : State) : Prop :=
  (s.outTag = .none ↔ s.phase ≠ Phase.complete ∧ s.phase ≠ Phase.failed) ∧
    (s.outTag = .frame ↔ s.phase = Phase.complete) ∧ (s.outTag = .timeout ↔ s.phase = Phase.failed)

/-- R35 item 4: code 0 unless a timeout; code 3 cannot be held. -/
abbrev StageLegal (s : State) : Prop :=
  (s.outTag ≠ .timeout → s.outStage.code = 0#2) ∧ s.outStage.code ≠ 3#2

/-- R35 item 5. -/
abbrev FrameLegal (s : State) : Prop :=
  (s.phase = Phase.idle ∨ s.phase = Phase.start ∨ s.phase = Phase.release ∨ s.phase = Phase.ackhigh ∨
      s.phase = Phase.acklow ∨ s.phase = Phase.failed → s.frame = Frame.zero) ∧
    (s.phase = Phase.bithigh ∨ s.phase = Phase.pulse →
      ∀ p : Fin 40, s.n.toNat ≤ p.val → s.frame.streamBit p.val = false)

/-- R35 item 6; its last sentence, that every polling op finds `dir = IN`, follows. -/
abbrev DirLegal (s : State) : Prop :=
  s.dir = .output ↔ (s.phase = Phase.start ∧ s.sub = 1#2) ∨ (s.phase = Phase.release ∧ (s.sub = 0#2 ∨ s.sub = 1#2))

/-- R35 item 7. -/
abbrev LvlLegal (s : State) : Prop :=
  s.lvl = .low ↔ (s.phase = Phase.start ∧ s.sub = 1#2) ∨ (s.phase = Phase.release ∧ s.sub = 0#2)

/-- R35 item 8. -/
abbrev DelayLegal (s : State) : Prop :=
  s.dlyPending = true → s.phase = Phase.start ∧ s.sub = 1#2

/-- The invariants of reachable states, R35. -/
structure Inv (s : State) : Prop where
  position : PositionLegal s
  count : CountLegal s
  tag : TagLegal s
  stage : StageLegal s
  frame : FrameLegal s
  dir : DirLegal s
  lvl : LvlLegal s
  delay : DelayLegal s

/-- "`led` is a function of `phase` at all times" (spec/60_exceptions.md R143). -/
abbrev LedFollowsPhase (s : State) : Prop := s.led = Config.ledMap s.phase

/-- The counter shows a number of `TICK_W` bits, "0 to `TICK_MAX`" (spec/20_memory.md R56). -/
abbrev TicksInRange (s : State) : Prop := s.ticks ≤ s.params.tickMax

/-- A state some schedule leads to from reset, whatever the legal parameters (spec/00_scope.md R8) and the unspecified
reset values are (R34, R52). -/
def Reachable (s : State) : Prop :=
  ∃ (k : Nat) (ms : List Move) (p : Params) (e : Nat) (v : Level) (d : BitVec 8),
    p.Legal ∧ e ≤ p.tickMax ∧
    Host.Core.run Sys2Proof.core k
      { State.reset with moves := ms, params := p, ticks := e, line := v, dlyMs := d } = .next s

/-- A budgeted wait: the state is in it, the level it waits for, its budget, and the stage its timeout names
(spec/60_exceptions.md R126). -/
def BudgetedWait (s : State) (awaited : Level) (budget : Nat) (g : Stage) : Prop :=
  s.sub = 0#2 ∧
    ((s.phase = Phase.ackhigh ∧ awaited = .high ∧ budget = s.params.tAck ∧ g = .ackHigh) ∨
      (s.phase = Phase.acklow ∧ awaited = .low ∧ budget = s.params.tAck ∧ g = .ackLow) ∨
      (s.phase = Phase.bithigh ∧ awaited = .high ∧ budget = s.params.tBitWait ∧ g = .bitHigh))

/-- The moves of the other agents that may fall between two core steps of a running attempt: timer increments, line
changes to any level, a completed delay, host accesses. Left out are `rst` and the model's own evaluations. -/
def Move.betweenCoreSteps : Move → Bool
  | .core => false
  | .tick => true
  | .line _ => true
  | .delayDone => true
  | .hostWrite _ _ => true
  | .hostRead _ => true
  | .evalBitdec _ => false
  | .evalPack _ => false
  | .evalChksum _ => false
  | .rst => false

/-- A gap: what happens between two core steps, in order. -/
abbrev Gap := List Move

/-- Nothing in a gap but moves of the other agents. -/
abbrev Gap.ok (g : Gap) : Prop := ∀ m ∈ g, m.betweenCoreSteps = true

/-- How many timer increments a gap holds, the draw `d` of spec/20_memory.md R52. -/
def Gap.ticks (g : Gap) : Nat := g.count .tick

/-- How many timer increments a list of gaps holds. -/
def gapTicks (gs : List Gap) : Nat := (gs.map Gap.ticks).sum

/-- The level of the line after a move. -/
def Move.lineAfter (l : Level) : Move → Level
  | .line v => v
  | .core => l
  | .tick => l
  | .delayDone => l
  | .hostWrite _ _ => l
  | .hostRead _ => l
  | .evalBitdec _ => l
  | .evalPack _ => l
  | .evalChksum _ => l
  | .rst => l

/-- The level of the line after a gap. -/
def Gap.lineAfter (l : Level) (g : Gap) : Level := g.foldl Move.lineAfter l

/-- Core steps, each after its gap. -/
def coreSteps : List Gap → List Move
  | [] => []
  | g :: gs => g ++ .core :: coreSteps gs

/-- The level of the line at each of those core steps. -/
def linesAt (l : Level) : List Gap → List Level
  | [] => []
  | g :: gs => g.lineAfter l :: linesAt (g.lineAfter l) gs

/-- The timer increments from the start of a wait to each of those core steps. -/
def countsAt (c : Nat) : List Gap → List Nat
  | [] => []
  | g :: gs => (c + g.ticks) :: countsAt (c + g.ticks) gs

/-- The polls of a wait whose timer was just reset never read more than a budget. -/
abbrev WithinBudget (p : Params) (budget : Nat) (gs : List Gap) : Prop :=
  ∀ c ∈ countsAt 0 gs, p.wrap c ≤ budget

/-- One bit as the environment presents it: the gaps before the polls that find the line still low, before the one that
finds it risen, before those that find it still high, and before the one that finds it fallen. -/
structure Pulse where
  lows : List Gap
  rise : Gap
  highs : List Gap
  fall : Gap
  deriving DecidableEq, Repr

/-- How many ticks the pulse is high, counted from the poll that saw it rise to the poll that sees it fall. -/
def Pulse.width (p : Pulse) : Nat := gapTicks (p.highs ++ [p.fall])

/-- The gaps of one bit. -/
def Pulse.gaps (p : Pulse) : List Gap := p.lows ++ p.rise :: (p.highs ++ [p.fall])

/-- The levels the polls of one bit find. -/
def Pulse.levels (p : Pulse) : List Level :=
  List.replicate p.lows.length .low ++ .high :: (List.replicate p.highs.length .high ++ [.low])

/-- The gaps of a stream of bits. -/
def streamGaps (ps : List Pulse) : List Gap := ps.flatMap Pulse.gaps

/-- The levels the polls of a stream of bits find. -/
def streamLevels (ps : List Pulse) : List Level := ps.flatMap Pulse.levels

/-- A handshake as the environment presents it: the gaps before START.DRIVE, before the START.HOLDs that find the delay
pending, before the one that finds it done, before RELEASE.HIGH and RELEASE.FLOAT, and before the polls of the
three waits, each of which waits some polls and then succeeds. -/
structure Handshake where
  drive : Gap
  holds : List Gap
  held : Gap
  high : Gap
  float : Gap
  idles : List Gap
  pull : Gap
  lows : List Gap
  rise : Gap
  highs : List Gap
  fall : Gap
  deriving DecidableEq, Repr

/-- The gaps of Start and of the two ops of Release that drive the pin. -/
def Handshake.opening (h : Handshake) : List Gap := h.drive :: (h.holds ++ [h.held, h.high, h.float])

/-- The gaps of the three waits. -/
def Handshake.waits (h : Handshake) : List Gap :=
  h.idles ++ h.pull :: (h.lows ++ h.rise :: (h.highs ++ [h.fall]))

/-- The levels the polls of the three waits find. -/
def Handshake.levels (h : Handshake) : List Level :=
  List.replicate h.idles.length .high ++ .low :: (List.replicate h.lows.length .low ++
    .high :: (List.replicate h.highs.length .high ++ [.low]))

/-- The block is at a position of the sequencer. -/
@[simp] abbrev State.isAt (s : State) (p : BitVec 4) (q : BitVec 2) : Prop := s.phase = p ∧ s.sub = q

/-- The host write that is CMD_START (spec/30_encoding.md R64). -/
abbrev IsStartCommand (m : Move) : Prop :=
  ∃ v : Byte, m = .hostWrite 0x0#4 v ∧ v.getLsbD 0 = true

end Sys2Proof.Machine
end

