-- ==== Sys2Proof/Certificates/Slice0/Obligations.lean ====
section
/-! DEFINITION. The statements for the provers, from the numbered rules of spec/. -/

open Sys2Proof Sys2Proof.Machine

/-! ### Encodings -/

/-- R63: the op map, that its 12 words are the only legal ones, and which bits of `SEQ` are `phase` and `sub`. -/
def Obligations.SequencerWordsDecodeAsTheOpMap : Prop :=
  decode (.seq 0b000000#6) = .ok .idleWait ∧ decode (.seq 0b000100#6) = .ok .startDrive ∧
  decode (.seq 0b000101#6) = .ok .startHold ∧ decode (.seq 0b001000#6) = .ok .releaseHigh ∧
  decode (.seq 0b001001#6) = .ok .releaseFloat ∧ decode (.seq 0b001010#6) = .ok .releasePoll ∧
  decode (.seq 0b001100#6) = .ok .ackhighPoll ∧ decode (.seq 0b010000#6) = .ok .acklowPoll ∧
  decode (.seq 0b010100#6) = .ok .bithighPoll ∧ decode (.seq 0b011000#6) = .ok .pulsePoll ∧
  decode (.seq 0b011100#6) = .ok .completeHold ∧ decode (.seq 0b100000#6) = .ok .failedHold ∧
  (∀ w : BitVec 6, w ∉ [0x00#6, 0x04#6, 0x05#6, 0x08#6, 0x09#6, 0x0A#6, 0x0C#6, 0x10#6, 0x14#6, 0x18#6, 0x1C#6, 0x20#6] →
    decode (.seq w) = .error .reservedSeq) ∧
  (∀ s : State, s.seq.extractLsb' 2 4 = s.phase ∧ s.seq.extractLsb' 0 2 = s.sub)

/-- R64, R70: the words of the host operations and of the pure functions. The refusal of a PACK position of 40 or more is
the model's reading of "given no meaning" (log 9). -/
def Obligations.HostAndFunctionWordsDecode : Prop :=
  (∀ (a : BitVec 4) (v : Byte), a = 0x0#4 → v.getLsbD 0 = true → decode (.hostWrite a v) = .ok .cmdStart) ∧
  (∀ (a : BitVec 4) (v : Byte), a ≠ 0x0#4 ∨ v.getLsbD 0 = false → decode (.hostWrite a v) = .error .notACommand) ∧
  (∀ a : BitVec 4, decode (.hostRead a) = .ok (.hostRd a)) ∧
  (∀ e : BitVec 8, decode (.bitdec e) = .ok (.bitdec e)) ∧
  decode (.pack 0b1001111#7) = .ok (.pack 39#6 true) ∧ decode (.pack 0b0000010#7) = .ok (.pack 1#6 false) ∧
  decode (.pack 0b1010000#7) = .error .framePosition ∧
  decode (.chksum 0x230019003C#40) = .ok (.chksum 0x23#8 0x00#8 0x19#8 0x00#8 0x3C#8)

/-- Decoding an encoded well-formed instruction gives it back, with every operand at every value. -/
def Obligations.DecodeOfEncodeIsTheInstruction : Prop :=
  ∀ i : Instr, i.wellFormed = true → decode (encode i) = .ok i

/-- A word that decodes gives a well-formed instruction whose encoding is that word; the data of CMD_START alone has bits
the encoding ignores (R64). -/
def Obligations.EncodeOfDecodeIsTheWord : Prop :=
  ∀ (c : Code) (i : Instr), decode c = .ok i →
    i.wellFormed = true ∧
      (encode i = c ∨ (i = .cmdStart ∧ ∃ v : Byte, c = .hostWrite 0x0#4 v ∧ v.getLsbD 0 = true))

/-! ### Reset -/

/-- R34: the values at reset, and that every window register reads 0. The values of `ticks`, `line`, which R34 leaves
unspecified, are not stated. -/
def Obligations.ResetLeavesTheStatedValues : Prop :=
  State.reset.phase = 0#4 ∧ State.reset.sub = 0#2 ∧ State.reset.n = 0#6 ∧
  State.reset.frame.humidityInt = 0x00#8 ∧ State.reset.frame.humidityFrac = 0x00#8 ∧
  State.reset.frame.tempInt = 0x00#8 ∧ State.reset.frame.tempFrac = 0x00#8 ∧ State.reset.frame.checksum = 0x00#8 ∧
  State.reset.outTag.code = 0#2 ∧ State.reset.outStage.code = 0#2 ∧
  State.reset.dir.code = 0#1 ∧ State.reset.lvl.code = 1#1 ∧
  State.reset.led = Config.ledMap 0#4 ∧ State.reset.dlyPending = false ∧
  (∀ a : BitVec 4, memRead State.reset a = 0x00#8)

/-- R150: a step with `rst` asserted, from any state whatever, gives every register of the block its reset value. That
the parameters stay and that the rest of the schedule is left is the model's own (log 1, log 2). -/
def Obligations.RstStepGivesResetValues : Prop :=
  ∀ (s : State) (rest : List Move), s.moves = .rst :: rest →
    ∃ t, step s = .next t ∧
      t.phase = 0#4 ∧ t.sub = 0#2 ∧ t.n = 0#6 ∧ t.frame = Frame.zero ∧ t.outTag = .none ∧ t.outStage = .ackHigh ∧
      t.dir = .input ∧ t.lvl = .high ∧ t.led = Config.ledMap 0#4 ∧ t.dlyPending = false ∧
      t.params = s.params ∧ t.moves = rest

/-! ### The result of every instruction -/

/-- R82, R117, R118: the three resting ops change nothing. -/
def Obligations.RestingOpsChangeNothing : Prop :=
  ∀ s : State, exec .idleWait s = .next s ∧ exec .completeHold s = .next s ∧ exec .failedHold s = .next s

/-- R91. -/
def Obligations.StartDriveDrivesLowAndRequestsTheDelay : Prop :=
  ∀ s : State, exec .startDrive s =
    .next { s with lvl := .low, dir := .output, dlyPending := true, dlyMs := s.params.startLowMs, sub := 1#2 }

/-- R92. -/
def Obligations.StartHoldWaitsForTheDelay : Prop :=
  ∀ s : State,
    (s.dlyPending = false →
      exec .startHold s = .next { s with phase := 2#4, sub := 0#2, led := Config.ledMap 2#4 }) ∧
    (s.dlyPending = true → exec .startHold s = .next s)

/-- R93, R94. -/
def Obligations.ReleaseDrivesHighThenFloats : Prop :=
  ∀ s : State, exec .releaseHigh s = .next { s with lvl := .high, sub := 1#2 } ∧
    exec .releaseFloat s = .next { s with dir := .input, sub := 2#2 }

/-- R95. -/
def Obligations.ReleasePollWaitsForLow : Prop :=
  ∀ s : State,
    (s.line = .low → exec .releasePoll s =
      .next { s with phase := 3#4, sub := 0#2, ticks := 0, led := Config.ledMap 3#4 }) ∧
    (s.line = .high → exec .releasePoll s = .next s)

/-- R96. -/
def Obligations.AckHighPollResult : Prop :=
  ∀ s : State,
    (s.line = .high → exec .ackhighPoll s =
      .next { s with phase := 4#4, ticks := 0, led := Config.ledMap 4#4 }) ∧
    (s.line = .low → s.params.tAck < s.ticks → exec .ackhighPoll s =
      .next { s with outTag := .timeout, outStage := .ackHigh, frame := Frame.zero, n := 0#6, phase := 8#4, sub := 0#2,
                     led := Config.ledMap 8#4 }) ∧
    (s.line = .low → s.ticks ≤ s.params.tAck → exec .ackhighPoll s = .next s)

/-- R97. -/
def Obligations.AckLowPollResult : Prop :=
  ∀ s : State,
    (s.line = .low → exec .acklowPoll s =
      .next { s with phase := 5#4, n := 0#6, ticks := 0, led := Config.ledMap 5#4 }) ∧
    (s.line = .high → s.params.tAck < s.ticks → exec .acklowPoll s =
      .next { s with outTag := .timeout, outStage := .ackLow, frame := Frame.zero, n := 0#6, phase := 8#4, sub := 0#2,
                     led := Config.ledMap 8#4 }) ∧
    (s.line = .high → s.ticks ≤ s.params.tAck → exec .acklowPoll s = .next s)

/-- R102. -/
def Obligations.BitHighPollResult : Prop :=
  ∀ s : State,
    (s.line = .high → exec .bithighPoll s =
      .next { s with phase := 6#4, ticks := 0, led := Config.ledMap 6#4 }) ∧
    (s.line = .low → s.params.tBitWait < s.ticks → exec .bithighPoll s =
      .next { s with outTag := .timeout, outStage := .bitHigh, frame := Frame.zero, n := 0#6, phase := 8#4, sub := 0#2,
                     led := Config.ledMap 8#4 }) ∧
    (s.line = .low → s.ticks ≤ s.params.tBitWait → exec .bithighPoll s = .next s)

/-- R103: the wait, a bit that is not the last, and the last bit. -/
def Obligations.PulsePollResult : Prop :=
  ∀ s : State,
    (s.line = .high → exec .pulsePoll s = .next s) ∧
    (s.line = .low → s.n.toNat < 39 → exec .pulsePoll s =
      .next { s with frame := pack s.frame s.n.toNat (bitdec s.params.tBit s.ticks), n := s.n + 1#6,
                     phase := 5#4, ticks := 0, led := Config.ledMap 5#4 }) ∧
    (s.line = .low → s.n.toNat = 39 → exec .pulsePoll s =
      .next { s with frame := pack s.frame 39 (bitdec s.params.tBit s.ticks), outTag := .frame, outStage := .ackHigh,
                     phase := 7#4, led := Config.ledMap 7#4 })

/-- R80, R81: begins an attempt from each of the three resting phases, after which STATUS reads 0x01, and is ignored in every
other phase; bits 7:1 of the data are ignored. -/
def Obligations.CmdStartBeginsOrIsIgnored : Prop :=
  ∀ s : State,
    (s.phase = 0#4 ∨ s.phase = 7#4 ∨ s.phase = 8#4 → ∃ t, exec .cmdStart s = .next t ∧ memRead t 0x1#4 = 0x01#8 ∧
      t = { s with frame := Frame.zero, n := 0#6, outTag := .none, outStage := .ackHigh, phase := 1#4, sub := 0#2,
                   led := Config.ledMap 1#4 }) ∧
    (s.phase ≠ 0#4 → s.phase ≠ 7#4 → s.phase ≠ 8#4 → exec .cmdStart s = .next s) ∧
    (∀ v : Byte, v.getLsbD 0 = true → decode (.hostWrite 0x0#4 v) = .ok .cmdStart)

/-- R83 with the map R20 to R26 and the flag definitions R18: the byte read at each address. The answer's place is the
model's own field (log 7). -/
def Obligations.HostReadReturnsTheWindowByte : Prop :=
  ∀ (a : BitVec 4) (s : State), exec (.hostRd a) s = .next { s with answer := .byte (
    if a = 0x1#4 then
      0#2 ++ s.outStage.code ++
        BitVec.ofBool (decide (s.outTag = .frame) && chksum s.frame) ++
        BitVec.ofBool (decide (s.outTag = .timeout)) ++
        BitVec.ofBool (decide (s.outTag ≠ .none)) ++
        BitVec.ofBool (decide (s.phase ≠ 0#4 ∧ s.phase ≠ 7#4 ∧ s.phase ≠ 8#4))
    else if a = 0x2#4 then 0#2 ++ s.phase ++ s.sub
    else if a = 0x3#4 then 0#2 ++ s.n
    else if a = 0x4#4 then s.frame.humidityInt
    else if a = 0x5#4 then s.frame.humidityFrac
    else if a = 0x6#4 then s.frame.tempInt
    else if a = 0x7#4 then s.frame.tempFrac
    else if a = 0x8#4 then s.frame.checksum
    else 0x00#8) }

/-- R104: BITDEC hands out 0 up to and including the threshold, 1 above it; nothing of the block changes (log 7). -/
def Obligations.BitdecComparesInclusively : Prop :=
  ∀ (e : BitVec 8) (s : State),
    (e.toNat ≤ s.params.tBit → exec (.bitdec e) s = .next { s with answer := .bit false }) ∧
    (s.params.tBit < e.toNat → exec (.bitdec e) s = .next { s with answer := .bit true })

/-- R105: PACK hands out the frame with the one bit assigned, and completes at every position the spec gives it; the block's own
frame buffer does not change (log 7). The stop at 40 and above is the model's (log 9). -/
def Obligations.PackHandsOutTheFrameWithOneBitAssigned : Prop :=
  ∀ (n : BitVec 6) (b : Bool) (s : State),
    (n.toNat < 40 → ∃ f : Frame,
      exec (.pack n b) s = .next { s with answer := .frame f } ∧
        ∀ i k : Nat, i < 5 → k < 8 → (f.byte i).getLsbD k =
          if i = n.toNat / 8 ∧ k = 7 - n.toNat % 8 then b else (s.frame.byte i).getLsbD k) ∧
    (40 ≤ n.toNat → exec (.pack n b) s = .fault .framePosition)

/-- R115: CHKSUM hands out whether the exact sum of the first four bytes modulo 256 is the fifth (log 7). -/
def Obligations.ChksumComparesTheSumModulo256 : Prop :=
  ∀ (h g t u c : Byte) (s : State), exec (.chksum h g t u c) s =
    .next { s with answer := .bit (decide ((h.toNat + g.toNat + t.toNat + u.toNat) % 256 = c.toNat)) }

/-! ### Steps -/

/-- A step whose move presents a word that decodes runs the decoded instruction, in the state with that move taken off the
schedule; the core's word is `SEQ` (R16, R63), the host's is its write or read (R50), a function's is its operand word (log 7). -/
def Obligations.StepRunsTheDecodedInstruction : Prop :=
  ∀ (s : State) (rest : List Move) (i : Instr), s.n.toNat < 40 → s.seq ∈
      [0x00#6, 0x04#6, 0x05#6, 0x08#6, 0x09#6, 0x0A#6, 0x0C#6, 0x10#6, 0x14#6, 0x18#6, 0x1C#6, 0x20#6] →
    (s.moves = .core :: rest → decode (.seq s.seq) = .ok i → step s = exec i { s with moves := rest }) ∧
    (∀ a v, s.moves = .hostWrite a v :: rest → decode (.hostWrite a v) = .ok i →
      step s = exec i { s with moves := rest }) ∧
    (∀ a, s.moves = .hostRead a :: rest → decode (.hostRead a) = .ok i → step s = exec i { s with moves := rest }) ∧
    (∀ w, s.moves = .evalBitdec w :: rest → decode (.bitdec w) = .ok i → step s = exec i { s with moves := rest }) ∧
    (∀ w, s.moves = .evalPack w :: rest → decode (.pack w) = .ok i → step s = exec i { s with moves := rest }) ∧
    (∀ w, s.moves = .evalChksum w :: rest → decode (.chksum w) = .ok i → step s = exec i { s with moves := rest })

/-- R139, R142, R29, R50: what the moves do that run no instruction. That LINE may move while `dir = OUT` is the model's
choice (log 11). -/
def Obligations.EnvironmentStepsDoWhatTheirAgentsDo : Prop :=
  ∀ (s : State) (rest : List Move), s.n.toNat < 40 → s.seq ∈
      [0x00#6, 0x04#6, 0x05#6, 0x08#6, 0x09#6, 0x0A#6, 0x0C#6, 0x10#6, 0x14#6, 0x18#6, 0x1C#6, 0x20#6] →
    (s.moves = .tick :: rest →
      step s = .next { s with moves := rest, ticks := (s.ticks + 1) % 2 ^ s.params.tickW }) ∧
    (∀ v, s.moves = .line v :: rest → step s = .next { s with moves := rest, line := v }) ∧
    (s.moves = .delayDone :: rest → step s = .next { s with moves := rest, dlyPending := false }) ∧
    (∀ a v, s.moves = .hostWrite a v :: rest → a ≠ 0x0#4 ∨ v.getLsbD 0 = false →
      step s = .next { s with moves := rest })

/-- The model's choice (log 9), from spec/30_encoding.md R71 "a model gives such a state no step": with a reserved `SEQ`
or `n` every step but `rst` stops, by name. -/
def Obligations.ReservedStatesHaveNoStepButReset : Prop :=
  ∀ (s : State) (m : Move) (rest : List Move), s.moves = m :: rest → m ≠ .rst →
    (s.seq ∉ [0x00#6, 0x04#6, 0x05#6, 0x08#6, 0x09#6, 0x0A#6, 0x0C#6, 0x10#6, 0x14#6, 0x18#6, 0x1C#6, 0x20#6] →
      step s = .fault .reservedSeq) ∧
    (s.seq ∈ [0x00#6, 0x04#6, 0x05#6, 0x08#6, 0x09#6, 0x0A#6, 0x0C#6, 0x10#6, 0x14#6, 0x18#6, 0x1C#6, 0x20#6] →
      40 ≤ s.n.toNat → step s = .fault .reservedBitCount)

/-! ### Invariants -/

/-- The invariants of R35 hold right after reset. -/
def Obligations.ResetMeetsTheInvariants : Prop := Inv State.reset

/-- The invariants of R35 are inductive: every step of every agent keeps them, from every state that has them. -/
def Obligations.EveryStepKeepsTheInvariants : Prop :=
  ∀ s t : State, Inv s → step s = .next t → Inv t

/-- From a state with the invariants of R35 no step stops, except the evaluation of a PACK at a position of 40 or more, which is
no step of the spec's agents (log 7, log 9). -/
def Obligations.LegalStatesAlwaysStep : Prop :=
  ∀ s : State, Inv s → (∃ t, step s = .next t) ∨ (∃ w : BitVec 7, nextMove s = .evalPack w ∧ 40 ≤ (w.extractLsb' 1 6).toNat ∧
    step s = .fault .framePosition)

/-- R35: the eight items, in every state reachable from reset, whatever the schedule, the legal parameters (R8), and the
unspecified reset values of `ticks` and `line`. -/
def Obligations.ReachableStatesMeetTheInvariants : Prop :=
  ∀ s : State, Reachable s → Inv s

/-- R143: `led` is a function of `phase` at all times, whatever the open map is. -/
def Obligations.LedAlwaysShowsThePhase : Prop :=
  LedFollowsPhase State.reset ∧ ∀ s t : State, LedFollowsPhase s → step s = .next t → LedFollowsPhase t

/-- R7: "no rule writes" the parameters. -/
def Obligations.NoStepChangesTheParameters : Prop :=
  ∀ s t : State, step s = .next t → t.params = s.params

/-! ### Rules about the whole machine -/

/-- R99: the position after any step of any agent, as a function of the position before and the conditions of the table;
where no condition holds it stays. -/
def Obligations.PositionMovesOnlyAlongTheGraph : Prop :=
  ∀ (s t : State) (m : Move), takeStep m s = .next t →
    (m = .rst → t.isAt 0#4 0#2) ∧
    (IsStartCommand m → (t.phase, t.sub) =
      if s.phase = 0#4 ∨ s.phase = 7#4 ∨ s.phase = 8#4 then (1#4, 0#2) else (s.phase, s.sub)) ∧
    (m = .core → (t.phase, t.sub) =
      if s.isAt 1#4 0#2 then (1#4, 1#2)
      else if s.isAt 1#4 1#2 ∧ s.dlyPending = false then (2#4, 0#2)
      else if s.isAt 2#4 0#2 then (2#4, 1#2)
      else if s.isAt 2#4 1#2 then (2#4, 2#2)
      else if s.isAt 2#4 2#2 ∧ s.line = .low then (3#4, 0#2)
      else if s.isAt 3#4 0#2 ∧ s.line = .high then (4#4, 0#2)
      else if s.isAt 3#4 0#2 ∧ s.params.tAck < s.ticks then (8#4, 0#2)
      else if s.isAt 4#4 0#2 ∧ s.line = .low then (5#4, 0#2)
      else if s.isAt 4#4 0#2 ∧ s.params.tAck < s.ticks then (8#4, 0#2)
      else if s.isAt 5#4 0#2 ∧ s.line = .high then (6#4, 0#2)
      else if s.isAt 5#4 0#2 ∧ s.params.tBitWait < s.ticks then (8#4, 0#2)
      else if s.isAt 6#4 0#2 ∧ s.line = .low ∧ s.n.toNat < 39 then (5#4, 0#2)
      else if s.isAt 6#4 0#2 ∧ s.line = .low ∧ s.n.toNat = 39 then (7#4, 0#2)
      else (s.phase, s.sub)) ∧
    (m ≠ .rst → m ≠ .core → ¬ IsStartCommand m → (t.phase, t.sub) = (s.phase, s.sub))

/-- R11: the frame buffer has three writers. CMD_START clears it, PULSE.POLL changes the one bit at position `n`, the abort of
the three budgeted polls clears it; every other instruction leaves all 40 bits as they were. -/
def Obligations.FrameHasThreeWriters : Prop :=
  ∀ (i : Instr) (s t : State), exec i s = .next t →
    (i = .cmdStart → t.frame = s.frame ∨ (t.phase = 1#4 ∧ t.frame = Frame.zero)) ∧
    (i = .pulsePoll → ∀ p : Nat, p < 40 → p ≠ s.n.toNat → t.frame.streamBit p = s.frame.streamBit p) ∧
    (i = .ackhighPoll ∨ i = .acklowPoll ∨ i = .bithighPoll →
      t.frame = s.frame ∨ (t.phase = 8#4 ∧ t.outTag = .timeout ∧ t.frame = Frame.zero)) ∧
    (i ≠ .cmdStart → i ≠ .pulsePoll → i ≠ .ackhighPoll → i ≠ .acklowPoll → i ≠ .bithighPoll → t.frame = s.frame)

/-- R27, R59: `dir` and `lvl` are written by START.DRIVE, RELEASE.HIGH and RELEASE.FLOAT alone, so the line is never driven
after RELEASE.FLOAT until the next attempt; the delay is requested by START.DRIVE alone; and no instruction writes the
environment's `line` or the model's schedule. -/
def Obligations.PinLatchesHaveThreeWriters : Prop :=
  ∀ (i : Instr) (s t : State), exec i s = .next t →
    (i ≠ .startDrive → i ≠ .releaseFloat → t.dir = s.dir) ∧
    (i ≠ .startDrive → i ≠ .releaseHigh → t.lvl = s.lvl) ∧
    (i ≠ .startDrive → t.dlyPending = s.dlyPending ∧ t.dlyMs = s.dlyMs) ∧
    t.line = s.line ∧ t.params = s.params ∧ t.moves = s.moves ∧ t.draws = s.draws

/-- R17, R126: `out_tag` and `out_stage` are written by CMD_START, the last PULSE.POLL and the abort. A timeout is raised only
by the three polling ops, each under its condition and with its stage. -/
def Obligations.TimeoutsComeOnlyFromTheThreeBudgetedPolls : Prop :=
  ∀ (i : Instr) (s t : State), exec i s = .next t →
    (t.outTag = .timeout → s.outTag ≠ .timeout →
      (i = .ackhighPoll ∧ s.line = .low ∧ s.params.tAck < s.ticks ∧ t.outStage = .ackHigh) ∨
      (i = .acklowPoll ∧ s.line = .high ∧ s.params.tAck < s.ticks ∧ t.outStage = .ackLow) ∨
      (i = .bithighPoll ∧ s.line = .low ∧ s.params.tBitWait < s.ticks ∧ t.outStage = .bitHigh)) ∧
    (i ≠ .cmdStart → i ≠ .pulsePoll → i ≠ .ackhighPoll → i ≠ .acklowPoll → i ≠ .bithighPoll →
      t.outTag = s.outTag ∧ t.outStage = s.outStage)

/-- R132, R133: what an abort leaves, in the same step, with the stage of the op that raised it (R126). Everything R132 does not
assign is as before. -/
def Obligations.AbortDiscardsAllProgressAndParks : Prop :=
  ∀ (i : Instr) (s t : State), exec i s = .next t → t.phase = 8#4 → s.phase ≠ 8#4 →
    ∃ g : Stage,
      (i = .ackhighPoll ∧ g = .ackHigh ∨ i = .acklowPoll ∧ g = .ackLow ∨ i = .bithighPoll ∧ g = .bitHigh) ∧
      t = { s with outTag := .timeout, outStage := g, frame := Frame.zero, n := 0#6, phase := 8#4, sub := 0#2,
                   led := Config.ledMap 8#4 }

/-- The window bytes an instruction leaves alone: all 16 for the resting ops (R82, R117, R118), the host read (R83) and the
functions (R104, R105, R115; that these run on their own is log 7); all but `SEQ` for the sub-steps of Start and Release. -/
def Obligations.WindowBytesOtherOpsLeaveAlone : Prop :=
  ∀ (i : Instr) (s t : State) (a : BitVec 4), exec i s = .next t →
    ((i = .idleWait ∨ i = .completeHold ∨ i = .failedHold ∨ (∃ b, i = .hostRd b) ∨ (∃ e, i = .bitdec e) ∨
        (∃ n b, i = .pack n b) ∨ (∃ h g u v c, i = .chksum h g u v c)) → memRead t a = memRead s a) ∧
    ((i = .startDrive ∨ i = .releaseHigh ∨ i = .releaseFloat) → a ≠ 0x2#4 → memRead t a = memRead s a)

/-- R59: outside the three budgeted polls and PULSE.POLL with the line low, no instruction reads the timer: with another
count in it the instruction does the same to everything else, and the count stays unless RELEASE.POLL resets it. -/
def Obligations.TimerIsReadOnlyInTimedWaits : Prop :=
  ∀ (i : Instr) (s t : State) (e : Nat), i ≠ .ackhighPoll → i ≠ .acklowPoll → i ≠ .bithighPoll →
    (i = .pulsePoll → s.line = .high) → exec i s = .next t →
    exec i { s with ticks := e } =
      .next { t with ticks := if i = .releasePoll ∧ s.line = .low then 0 else e }

/-- R59: while the block drives the line (`dir = OUT`), no core step samples it, in any state with the invariants of R35. -/
def Obligations.LineIsNeverSampledWhileDriven : Prop :=
  ∀ (s t : State) (v : Level), Inv s → s.dir = .output → takeStep .core s = .next t →
    takeStep .core { s with line := v } = .next { t with line := v }

/-- R80: nothing of the previous attempt survives a CMD_START: two resting states that differ only in what an attempt
leaves behind (position, count, frame, outcome, indicators) begin the next attempt in one and the same state. -/
def Obligations.NothingIsCarriedIntoTheNextAttempt : Prop :=
  ∀ s u : State, busy s = false → busy u = false →
    s = { u with phase := s.phase, sub := s.sub, n := s.n, frame := s.frame, outTag := s.outTag, outStage := s.outStage,
                 led := s.led } →
    exec .cmdStart s = exec .cmdStart u

/-- R81, R86: while `BUSY = 1` no host access affects the attempt: a write changes nothing, a read changes only the answer
handed out. -/
def Obligations.HostCannotDisturbARunningAttempt : Prop :=
  ∀ (s t : State) (a : BitVec 4) (v : Byte), busy s = true →
    (takeStep (.hostWrite a v) s = .next t → t = s) ∧
    (takeStep (.hostRead a) s = .next t → t = { s with answer := .byte (memRead s a) })

/-- R117, R118: a finished attempt stays as it is until CMD_START or reset: every other move of every agent leaves the
position, the count, the frame, the outcome, the pins and the indicators alone. -/
def Obligations.OutcomeIsStableUntilCommandOrReset : Prop :=
  ∀ (s t : State) (m : Move), Inv s → s.phase = 7#4 ∨ s.phase = 8#4 → m ≠ .rst → ¬ IsStartCommand m →
    takeStep m s = .next t →
    t = { s with line := t.line, ticks := t.ticks, answer := t.answer }

/-- R22: the legal values of STATUS are exactly seven. -/
def Obligations.StatusReadsOneOfSevenValues : Prop :=
  (∀ s : State, Inv s → memRead s 0x1#4 ∈ [0x00#8, 0x01#8, 0x02#8, 0x0A#8, 0x06#8, 0x16#8, 0x26#8]) ∧
  (∀ b ∈ [0x00#8, 0x01#8, 0x02#8, 0x0A#8, 0x06#8, 0x16#8, 0x26#8], ∃ s : State, Inv s ∧ memRead s 0x1#4 = b)

/-- R87: at the end of an attempt exactly one of: a frame with its verdict, or a timeout with an all-zero buffer; in both
cases the block does not drive the line. A checksum mismatch is still a frame (R119). -/
def Obligations.AttemptEndsInFrameOrTimeout : Prop :=
  ∀ s : State, Inv s → done s = true →
    ((s.outTag = .frame ∧ s.phase = 7#4 ∧ err s = false ∧ chkOk s = chksum s.frame) ∨
      (s.outTag = .timeout ∧ s.phase = 8#4 ∧ err s = true ∧ chkOk s = false ∧ s.frame = Frame.zero ∧ s.n = 0#6)) ∧
    s.dir = .input ∧ s.lvl = .high

/-- R140, R144: `tmr_clr` is 1 in exactly the steps that perform `TimerReset()`: such a step is a core step and leaves the count 0,
and a core step without it leaves the count as it was. -/
def Obligations.TimerClearPortMarksTheResets : Prop :=
  ∀ (s t : State) (m : Move) (a : BitVec 4), takeStep m s = .next t →
    ((outPorts a m s).tmrClr = true → m = .core ∧ t.ticks = 0) ∧
    (m = .core → (outPorts a m s).tmrClr = false → t.ticks = s.ticks)

/-- R142, R144: `dly_req` is 1 in exactly the steps that perform `DelayRequest`, with the argument on `dly_ms`: such a step is a
core step, hands that argument over and leaves the delay pending; without it no step but `rst` changes the argument
held, and none makes a delay pending. -/
def Obligations.DelayRequestPortMarksTheRequests : Prop :=
  ∀ (s t : State) (m : Move) (a : BitVec 4), takeStep m s = .next t →
    ((outPorts a m s).dlyReq = true → m = .core ∧ t.dlyPending = true ∧ t.dlyMs = (outPorts a m s).dlyMs) ∧
    ((outPorts a m s).dlyReq = false → (m ≠ .rst → t.dlyMs = s.dlyMs) ∧ (t.dlyPending = true → s.dlyPending = true))

/-! ### Arithmetic -/

/-- R116: an 8-bit accumulator that drops each carry, and a 10-bit adder whose sum is truncated, agree with the exact sum taken
modulo 256; and the rule's two frames. -/
def Obligations.ChecksumByEightBitAccumulator : Prop :=
  (∀ f : Frame,
    chksum f = decide (f.humidityInt + f.humidityFrac + f.tempInt + f.tempFrac = f.checksum) ∧
    chksum f = decide ((f.humidityInt.setWidth 10 + f.humidityFrac.setWidth 10 + f.tempInt.setWidth 10 +
      f.tempFrac.setWidth 10).setWidth 8 = f.checksum)) ∧
  chksum (Frame.mk 0xFF#8 0xFF#8 0xFF#8 0xFF#8 252#8) = true ∧
  chksum (Frame.mk 0xFF#8 0xFF#8 0xFF#8 0xFF#8 254#8) = false

/-- R43: stream bit `n` is bit `39 - n` of the frame as one 40-bit number with `F[0]` in the high byte. -/
def Obligations.StreamBitsRunFromTheTopOfTheFrame : Prop :=
  ∀ (f : Frame) (n : Nat), n < 40 → f.streamBit n = f.word40.getLsbD (39 - n)

/-- R58: a frame bit write is an assignment of that bit and leaves the other 39 unchanged. -/
def Obligations.PackAssignsOneStreamBit : Prop :=
  ∀ (f : Frame) (n p : Nat) (b : Bool), n < 40 → p < 40 →
    (pack f n b).streamBit p = if p = n then b else f.streamBit p

/-- R106, R159: a pulse of `c` ticks decodes as `c mod 2^TICK_W` compared with the threshold, however long it is; the modulus
is 256 for the default width. The steps come from the model's schedule (log 1). -/
def Obligations.PulseWidthIsReadModulo256 : Prop :=
  ∀ (s : State) (c : Nat) (rest : List Move), s.isAt 6#4 0#2 → s.n.toNat < 40 → s.ticks = 0 →
    s.moves = List.replicate c .tick ++ .line .low :: .core :: rest →
    ∃ t, Host.Core.run Sys2Proof.core (c + 2) s = .next t ∧
      t.frame = pack s.frame s.n.toNat (decide (s.params.tBit < c % 2 ^ s.params.tickW)) ∧ t.moves = rest

/-- R8: the ceiling. With a budget at or above `TICK_MAX` no reading the counter can show times a budgeted wait out: the poll
waits. Derived beside it: with legal parameters some reading does, and aborts with the wait's stage (R57, R96, R97, R102, R126,
R132). That the reset state and every reachable one are configured legally rests on the model's choice to hold the
parameters in the state, the defaults at reset (R7, R164) and R8's premise in `Reachable` (log 2). -/
def Obligations.ThresholdsMustStayBelowTheCeiling : Prop :=
  (∀ (s : State) (awaited : Level) (budget : Nat) (g : Stage), BudgetedWait s awaited budget g → s.n.toNat < 40 →
    s.line ≠ awaited →
    (s.params.Legal → ∃ (e : Nat) (t : State), e ≤ s.params.tickMax ∧ takeStep .core { s with ticks := e } = .next t ∧
      t.isAt 8#4 0#2 ∧ t.outTag = .timeout ∧ t.outStage = g) ∧
    (s.params.tickMax ≤ budget → TicksInRange s → takeStep .core s = .next s)) ∧
  State.reset.params.Legal ∧ ∀ s : State, Reachable s → s.params.Legal

/-- R56, R139: the counter shows a number from 0 to `TICK_MAX` = `2^TICK_W - 1`, at reset, in every reachable state, and after
every step from a state in which it does. -/
def Obligations.ReadingsStayBelowTheCeiling : Prop :=
  TicksInRange State.reset ∧ (∀ s t : State, TicksInRange s → step s = .next t → TicksInRange t) ∧
    ∀ s : State, Reachable s → TicksInRange s

/-! ### Runs

The moves of a run stand in the model's schedule (log 1). Between two core steps there may be any moves of the other
agents; left out are `rst`, which ends an attempt, and the model's own evaluations (log 7). -/

/-- R158: the two unbounded waits hang. While no poll finds the line low and `rst` is not asserted, any schedule of any
length of the five agents' moves leaves the block in Release or in MeasurePulse, still busy, with no outcome, and no step
stops. -/
def Obligations.UnboundedWaitsHangForEver : Prop :=
  ∀ (s : State) (gs : List Gap) (last : Gap) (rest : List Move), s.n.toNat < 40 → (s.isAt 2#4 2#2 ∨ s.isAt 6#4 0#2) →
    (∀ g ∈ gs, g.ok) → last.ok → (∀ l ∈ linesAt s.line gs, l = .high) → s.moves = coreSteps gs ++ last ++ rest →
    ∃ t, Host.Core.run Sys2Proof.core (coreSteps gs ++ last).length s = .next t ∧ t.phase = s.phase ∧ t.sub = s.sub ∧
      t.n = s.n ∧ t.frame = s.frame ∧ t.outTag = s.outTag ∧ t.outStage = s.outStage ∧ t.dir = s.dir ∧ t.lvl = s.lvl ∧
      busy t = true ∧ t.moves = rest

/-- R160, R161: in a budgeted wait whose level no poll finds, if the polls are never more than `TICK_MAX - T` ticks apart and
the timer keeps advancing, some poll aborts the attempt with the stage of the wait. Whatever else the other agents do
between the polls, a glitch to the awaited level that no poll sees (R162) among it, changes nothing. -/
def Obligations.BudgetedWaitsEndInTimeout : Prop :=
  ∀ (s : State) (awaited : Level) (budget : Nat) (stage : Stage) (gs : List Gap) (rest : List Move),
    BudgetedWait s awaited budget stage → s.n.toNat < 40 → (∀ g ∈ gs, g.ok) →
    (∀ l ∈ linesAt s.line gs, l ≠ awaited) → s.ticks ≤ budget → (∀ g ∈ gs, g.ticks ≤ s.params.tickMax - budget) →
    budget < s.ticks + gapTicks gs → s.moves = coreSteps gs ++ rest →
    ∃ (k : Nat) (t : State), k ≤ (coreSteps gs).length ∧ Host.Core.run Sys2Proof.core k s = .next t ∧
      t.isAt 8#4 0#2 ∧ t.outTag = .timeout ∧ t.outStage = stage ∧ t.frame = Frame.zero ∧ t.n = 0#6

/-- R107: the frame a complete bit stream produces is decided by the 40 readings alone, not by how many polls each wait took nor by
what they read, nor by anything else the other agents do between the polls, nor by the frame of the attempt before. -/
def Obligations.FortyPulsesGiveTheFrame : Prop :=
  ∀ (s : State) (ps : List Pulse) (rest : List Move), s.isAt 5#4 0#2 → s.n = 0#6 → s.ticks = 0 → ps.length = 40 →
    (∀ g ∈ streamGaps ps, g.ok) → (∀ p ∈ ps, WithinBudget s.params s.params.tBitWait p.lows) →
    linesAt s.line (streamGaps ps) = streamLevels ps → s.moves = coreSteps (streamGaps ps) ++ rest →
    ∃ t, Host.Core.run Sys2Proof.core (coreSteps (streamGaps ps)).length s = .next t ∧ t.isAt 7#4 0#2 ∧ t.n = 39#6 ∧
      t.outTag = .frame ∧ t.outStage = .ackHigh ∧ t.moves = rest ∧
      ∀ (j : Nat) (h : j < ps.length),
        t.frame.streamBit j = decide (s.params.tBit < ps[j].width % 2 ^ s.params.tickW)

/-- R80, R91 to R97, R107, R87: a whole attempt, from any resting state with the invariants of R35. A command, a handshake whose
waits stay within their budgets, however many polls each op takes, and forty pulses end in Complete with the forty decoded
bits, and STATUS reports the checksum's verdict. -/
def Obligations.AnAttemptDeliversTheFrame : Prop :=
  ∀ (s : State) (v : Byte) (h : Handshake) (ps : List Pulse) (rest : List Move), Inv s → busy s = false →
    v.getLsbD 0 = true → (∀ g ∈ h.opening ++ (h.waits ++ streamGaps ps), g.ok) →
    (∀ g ∈ h.holds, .delayDone ∉ g) → .delayDone ∈ h.held →
    WithinBudget s.params s.params.tAck h.lows → WithinBudget s.params s.params.tAck h.highs → ps.length = 40 →
    (∀ p ∈ ps, WithinBudget s.params s.params.tBitWait p.lows) →
    linesAt (Gap.lineAfter s.line h.opening.flatten) (h.waits ++ streamGaps ps) = h.levels ++ streamLevels ps →
    s.moves = .hostWrite 0x0#4 v :: coreSteps (h.opening ++ (h.waits ++ streamGaps ps)) ++ rest →
    ∃ t, Host.Core.run Sys2Proof.core (1 + (coreSteps (h.opening ++ (h.waits ++ streamGaps ps))).length) s = .next t ∧
      t.phase = 7#4 ∧ t.dir = .input ∧ t.lvl = .high ∧ t.moves = rest ∧
      memRead t 0x1#4 = (if chksum t.frame then 0x0A#8 else 0x02#8) ∧
      ∀ (j : Nat) (hj : j < ps.length),
        t.frame.streamBit j = decide (s.params.tBit < ps[j].width % 2 ^ s.params.tickW)
end

