-- ==== Sys2Proof/Laws/State.lean ====
section
/-! SUPPORT. One lemma per field per update of the state, so that no proof unfolds a record update. -/

namespace Sys2Proof.Machine

/-! ### setLevel -/

@[simp] theorem setLevel_phase (v : Level) (s : State) : (setLevel v s).phase = s.phase := rfl
@[simp] theorem setLevel_sub (v : Level) (s : State) : (setLevel v s).sub = s.sub := rfl
@[simp] theorem setLevel_n (v : Level) (s : State) : (setLevel v s).n = s.n := rfl
@[simp] theorem setLevel_frame (v : Level) (s : State) : (setLevel v s).frame = s.frame := rfl
@[simp] theorem setLevel_outTag (v : Level) (s : State) : (setLevel v s).outTag = s.outTag := rfl
@[simp] theorem setLevel_outStage (v : Level) (s : State) : (setLevel v s).outStage = s.outStage := rfl
@[simp] theorem setLevel_dir (v : Level) (s : State) : (setLevel v s).dir = s.dir := rfl
@[simp] theorem setLevel_lvl (v : Level) (s : State) : (setLevel v s).lvl = v := rfl
@[simp] theorem setLevel_led (v : Level) (s : State) : (setLevel v s).led = s.led := rfl
@[simp] theorem setLevel_line (v : Level) (s : State) : (setLevel v s).line = s.line := rfl
@[simp] theorem setLevel_ticks (v : Level) (s : State) : (setLevel v s).ticks = s.ticks := rfl
@[simp] theorem setLevel_dlyPending (v : Level) (s : State) : (setLevel v s).dlyPending = s.dlyPending := rfl
@[simp] theorem setLevel_dlyMs (v : Level) (s : State) : (setLevel v s).dlyMs = s.dlyMs := rfl
@[simp] theorem setLevel_params (v : Level) (s : State) : (setLevel v s).params = s.params := rfl
@[simp] theorem setLevel_answer (v : Level) (s : State) : (setLevel v s).answer = s.answer := rfl
@[simp] theorem setLevel_moves (v : Level) (s : State) : (setLevel v s).moves = s.moves := rfl
@[simp] theorem setLevel_draws (v : Level) (s : State) : (setLevel v s).draws = s.draws := rfl

/-! ### setDirection -/

@[simp] theorem setDirection_phase (d : Dir) (s : State) : (setDirection d s).phase = s.phase := rfl
@[simp] theorem setDirection_sub (d : Dir) (s : State) : (setDirection d s).sub = s.sub := rfl
@[simp] theorem setDirection_n (d : Dir) (s : State) : (setDirection d s).n = s.n := rfl
@[simp] theorem setDirection_frame (d : Dir) (s : State) : (setDirection d s).frame = s.frame := rfl
@[simp] theorem setDirection_outTag (d : Dir) (s : State) : (setDirection d s).outTag = s.outTag := rfl
@[simp] theorem setDirection_outStage (d : Dir) (s : State) : (setDirection d s).outStage = s.outStage := rfl
@[simp] theorem setDirection_dir (d : Dir) (s : State) : (setDirection d s).dir = d := rfl
@[simp] theorem setDirection_lvl (d : Dir) (s : State) : (setDirection d s).lvl = s.lvl := rfl
@[simp] theorem setDirection_led (d : Dir) (s : State) : (setDirection d s).led = s.led := rfl
@[simp] theorem setDirection_line (d : Dir) (s : State) : (setDirection d s).line = s.line := rfl
@[simp] theorem setDirection_ticks (d : Dir) (s : State) : (setDirection d s).ticks = s.ticks := rfl
@[simp] theorem setDirection_dlyPending (d : Dir) (s : State) : (setDirection d s).dlyPending = s.dlyPending := rfl
@[simp] theorem setDirection_dlyMs (d : Dir) (s : State) : (setDirection d s).dlyMs = s.dlyMs := rfl
@[simp] theorem setDirection_params (d : Dir) (s : State) : (setDirection d s).params = s.params := rfl
@[simp] theorem setDirection_answer (d : Dir) (s : State) : (setDirection d s).answer = s.answer := rfl
@[simp] theorem setDirection_moves (d : Dir) (s : State) : (setDirection d s).moves = s.moves := rfl
@[simp] theorem setDirection_draws (d : Dir) (s : State) : (setDirection d s).draws = s.draws := rfl

/-! ### timerReset -/

@[simp] theorem timerReset_phase (s : State) : (timerReset s).phase = s.phase := rfl
@[simp] theorem timerReset_sub (s : State) : (timerReset s).sub = s.sub := rfl
@[simp] theorem timerReset_n (s : State) : (timerReset s).n = s.n := rfl
@[simp] theorem timerReset_frame (s : State) : (timerReset s).frame = s.frame := rfl
@[simp] theorem timerReset_outTag (s : State) : (timerReset s).outTag = s.outTag := rfl
@[simp] theorem timerReset_outStage (s : State) : (timerReset s).outStage = s.outStage := rfl
@[simp] theorem timerReset_dir (s : State) : (timerReset s).dir = s.dir := rfl
@[simp] theorem timerReset_lvl (s : State) : (timerReset s).lvl = s.lvl := rfl
@[simp] theorem timerReset_led (s : State) : (timerReset s).led = s.led := rfl
@[simp] theorem timerReset_line (s : State) : (timerReset s).line = s.line := rfl
@[simp] theorem timerReset_ticks (s : State) : (timerReset s).ticks = 0 := rfl
@[simp] theorem timerReset_dlyPending (s : State) : (timerReset s).dlyPending = s.dlyPending := rfl
@[simp] theorem timerReset_dlyMs (s : State) : (timerReset s).dlyMs = s.dlyMs := rfl
@[simp] theorem timerReset_params (s : State) : (timerReset s).params = s.params := rfl
@[simp] theorem timerReset_answer (s : State) : (timerReset s).answer = s.answer := rfl
@[simp] theorem timerReset_moves (s : State) : (timerReset s).moves = s.moves := rfl
@[simp] theorem timerReset_draws (s : State) : (timerReset s).draws = s.draws := rfl

/-! ### delayRequest -/

@[simp] theorem delayRequest_phase (ms : BitVec 8) (s : State) : (delayRequest ms s).phase = s.phase := rfl
@[simp] theorem delayRequest_sub (ms : BitVec 8) (s : State) : (delayRequest ms s).sub = s.sub := rfl
@[simp] theorem delayRequest_n (ms : BitVec 8) (s : State) : (delayRequest ms s).n = s.n := rfl
@[simp] theorem delayRequest_frame (ms : BitVec 8) (s : State) : (delayRequest ms s).frame = s.frame := rfl
@[simp] theorem delayRequest_outTag (ms : BitVec 8) (s : State) : (delayRequest ms s).outTag = s.outTag := rfl
@[simp] theorem delayRequest_outStage (ms : BitVec 8) (s : State) : (delayRequest ms s).outStage = s.outStage := rfl
@[simp] theorem delayRequest_dir (ms : BitVec 8) (s : State) : (delayRequest ms s).dir = s.dir := rfl
@[simp] theorem delayRequest_lvl (ms : BitVec 8) (s : State) : (delayRequest ms s).lvl = s.lvl := rfl
@[simp] theorem delayRequest_led (ms : BitVec 8) (s : State) : (delayRequest ms s).led = s.led := rfl
@[simp] theorem delayRequest_line (ms : BitVec 8) (s : State) : (delayRequest ms s).line = s.line := rfl
@[simp] theorem delayRequest_ticks (ms : BitVec 8) (s : State) : (delayRequest ms s).ticks = s.ticks := rfl
@[simp] theorem delayRequest_dlyPending (ms : BitVec 8) (s : State) : (delayRequest ms s).dlyPending = true := rfl
@[simp] theorem delayRequest_dlyMs (ms : BitVec 8) (s : State) : (delayRequest ms s).dlyMs = ms := rfl
@[simp] theorem delayRequest_params (ms : BitVec 8) (s : State) : (delayRequest ms s).params = s.params := rfl
@[simp] theorem delayRequest_answer (ms : BitVec 8) (s : State) : (delayRequest ms s).answer = s.answer := rfl
@[simp] theorem delayRequest_moves (ms : BitVec 8) (s : State) : (delayRequest ms s).moves = s.moves := rfl
@[simp] theorem delayRequest_draws (ms : BitVec 8) (s : State) : (delayRequest ms s).draws = s.draws := rfl

/-! ### setLed -/

@[simp] theorem setLed_phase (p : BitVec 4) (s : State) : (setLed p s).phase = s.phase := rfl
@[simp] theorem setLed_sub (p : BitVec 4) (s : State) : (setLed p s).sub = s.sub := rfl
@[simp] theorem setLed_n (p : BitVec 4) (s : State) : (setLed p s).n = s.n := rfl
@[simp] theorem setLed_frame (p : BitVec 4) (s : State) : (setLed p s).frame = s.frame := rfl
@[simp] theorem setLed_outTag (p : BitVec 4) (s : State) : (setLed p s).outTag = s.outTag := rfl
@[simp] theorem setLed_outStage (p : BitVec 4) (s : State) : (setLed p s).outStage = s.outStage := rfl
@[simp] theorem setLed_dir (p : BitVec 4) (s : State) : (setLed p s).dir = s.dir := rfl
@[simp] theorem setLed_lvl (p : BitVec 4) (s : State) : (setLed p s).lvl = s.lvl := rfl
@[simp] theorem setLed_led (p : BitVec 4) (s : State) : (setLed p s).led = Config.ledMap p := rfl
@[simp] theorem setLed_line (p : BitVec 4) (s : State) : (setLed p s).line = s.line := rfl
@[simp] theorem setLed_ticks (p : BitVec 4) (s : State) : (setLed p s).ticks = s.ticks := rfl
@[simp] theorem setLed_dlyPending (p : BitVec 4) (s : State) : (setLed p s).dlyPending = s.dlyPending := rfl
@[simp] theorem setLed_dlyMs (p : BitVec 4) (s : State) : (setLed p s).dlyMs = s.dlyMs := rfl
@[simp] theorem setLed_params (p : BitVec 4) (s : State) : (setLed p s).params = s.params := rfl
@[simp] theorem setLed_answer (p : BitVec 4) (s : State) : (setLed p s).answer = s.answer := rfl
@[simp] theorem setLed_moves (p : BitVec 4) (s : State) : (setLed p s).moves = s.moves := rfl
@[simp] theorem setLed_draws (p : BitVec 4) (s : State) : (setLed p s).draws = s.draws := rfl

/-! ### changePhase -/

@[simp] theorem changePhase_phase (p : BitVec 4) (s : State) : (changePhase p s).phase = p := rfl
@[simp] theorem changePhase_sub (p : BitVec 4) (s : State) : (changePhase p s).sub = s.sub := rfl
@[simp] theorem changePhase_n (p : BitVec 4) (s : State) : (changePhase p s).n = s.n := rfl
@[simp] theorem changePhase_frame (p : BitVec 4) (s : State) : (changePhase p s).frame = s.frame := rfl
@[simp] theorem changePhase_outTag (p : BitVec 4) (s : State) : (changePhase p s).outTag = s.outTag := rfl
@[simp] theorem changePhase_outStage (p : BitVec 4) (s : State) : (changePhase p s).outStage = s.outStage := rfl
@[simp] theorem changePhase_dir (p : BitVec 4) (s : State) : (changePhase p s).dir = s.dir := rfl
@[simp] theorem changePhase_lvl (p : BitVec 4) (s : State) : (changePhase p s).lvl = s.lvl := rfl
@[simp] theorem changePhase_led (p : BitVec 4) (s : State) : (changePhase p s).led = Config.ledMap p := rfl
@[simp] theorem changePhase_line (p : BitVec 4) (s : State) : (changePhase p s).line = s.line := rfl
@[simp] theorem changePhase_ticks (p : BitVec 4) (s : State) : (changePhase p s).ticks = s.ticks := rfl
@[simp] theorem changePhase_dlyPending (p : BitVec 4) (s : State) : (changePhase p s).dlyPending = s.dlyPending := rfl
@[simp] theorem changePhase_dlyMs (p : BitVec 4) (s : State) : (changePhase p s).dlyMs = s.dlyMs := rfl
@[simp] theorem changePhase_params (p : BitVec 4) (s : State) : (changePhase p s).params = s.params := rfl
@[simp] theorem changePhase_answer (p : BitVec 4) (s : State) : (changePhase p s).answer = s.answer := rfl
@[simp] theorem changePhase_moves (p : BitVec 4) (s : State) : (changePhase p s).moves = s.moves := rfl
@[simp] theorem changePhase_draws (p : BitVec 4) (s : State) : (changePhase p s).draws = s.draws := rfl

/-! ### enterPhase -/

@[simp] theorem enterPhase_phase (p : BitVec 4) (s : State) : (enterPhase p s).phase = p := rfl
@[simp] theorem enterPhase_sub (p : BitVec 4) (s : State) : (enterPhase p s).sub = 0#2 := rfl
@[simp] theorem enterPhase_n (p : BitVec 4) (s : State) : (enterPhase p s).n = s.n := rfl
@[simp] theorem enterPhase_frame (p : BitVec 4) (s : State) : (enterPhase p s).frame = s.frame := rfl
@[simp] theorem enterPhase_outTag (p : BitVec 4) (s : State) : (enterPhase p s).outTag = s.outTag := rfl
@[simp] theorem enterPhase_outStage (p : BitVec 4) (s : State) : (enterPhase p s).outStage = s.outStage := rfl
@[simp] theorem enterPhase_dir (p : BitVec 4) (s : State) : (enterPhase p s).dir = s.dir := rfl
@[simp] theorem enterPhase_lvl (p : BitVec 4) (s : State) : (enterPhase p s).lvl = s.lvl := rfl
@[simp] theorem enterPhase_led (p : BitVec 4) (s : State) : (enterPhase p s).led = Config.ledMap p := rfl
@[simp] theorem enterPhase_line (p : BitVec 4) (s : State) : (enterPhase p s).line = s.line := rfl
@[simp] theorem enterPhase_ticks (p : BitVec 4) (s : State) : (enterPhase p s).ticks = s.ticks := rfl
@[simp] theorem enterPhase_dlyPending (p : BitVec 4) (s : State) : (enterPhase p s).dlyPending = s.dlyPending := rfl
@[simp] theorem enterPhase_dlyMs (p : BitVec 4) (s : State) : (enterPhase p s).dlyMs = s.dlyMs := rfl
@[simp] theorem enterPhase_params (p : BitVec 4) (s : State) : (enterPhase p s).params = s.params := rfl
@[simp] theorem enterPhase_answer (p : BitVec 4) (s : State) : (enterPhase p s).answer = s.answer := rfl
@[simp] theorem enterPhase_moves (p : BitVec 4) (s : State) : (enterPhase p s).moves = s.moves := rfl
@[simp] theorem enterPhase_draws (p : BitVec 4) (s : State) : (enterPhase p s).draws = s.draws := rfl

/-! ### setSub -/

@[simp] theorem setSub_phase (k : BitVec 2) (s : State) : (setSub k s).phase = s.phase := rfl
@[simp] theorem setSub_sub (k : BitVec 2) (s : State) : (setSub k s).sub = k := rfl
@[simp] theorem setSub_n (k : BitVec 2) (s : State) : (setSub k s).n = s.n := rfl
@[simp] theorem setSub_frame (k : BitVec 2) (s : State) : (setSub k s).frame = s.frame := rfl
@[simp] theorem setSub_outTag (k : BitVec 2) (s : State) : (setSub k s).outTag = s.outTag := rfl
@[simp] theorem setSub_outStage (k : BitVec 2) (s : State) : (setSub k s).outStage = s.outStage := rfl
@[simp] theorem setSub_dir (k : BitVec 2) (s : State) : (setSub k s).dir = s.dir := rfl
@[simp] theorem setSub_lvl (k : BitVec 2) (s : State) : (setSub k s).lvl = s.lvl := rfl
@[simp] theorem setSub_led (k : BitVec 2) (s : State) : (setSub k s).led = s.led := rfl
@[simp] theorem setSub_line (k : BitVec 2) (s : State) : (setSub k s).line = s.line := rfl
@[simp] theorem setSub_ticks (k : BitVec 2) (s : State) : (setSub k s).ticks = s.ticks := rfl
@[simp] theorem setSub_dlyPending (k : BitVec 2) (s : State) : (setSub k s).dlyPending = s.dlyPending := rfl
@[simp] theorem setSub_dlyMs (k : BitVec 2) (s : State) : (setSub k s).dlyMs = s.dlyMs := rfl
@[simp] theorem setSub_params (k : BitVec 2) (s : State) : (setSub k s).params = s.params := rfl
@[simp] theorem setSub_answer (k : BitVec 2) (s : State) : (setSub k s).answer = s.answer := rfl
@[simp] theorem setSub_moves (k : BitVec 2) (s : State) : (setSub k s).moves = s.moves := rfl
@[simp] theorem setSub_draws (k : BitVec 2) (s : State) : (setSub k s).draws = s.draws := rfl

/-! ### giveAnswer -/

@[simp] theorem giveAnswer_phase (a : Answer) (s : State) : (giveAnswer a s).phase = s.phase := rfl
@[simp] theorem giveAnswer_sub (a : Answer) (s : State) : (giveAnswer a s).sub = s.sub := rfl
@[simp] theorem giveAnswer_n (a : Answer) (s : State) : (giveAnswer a s).n = s.n := rfl
@[simp] theorem giveAnswer_frame (a : Answer) (s : State) : (giveAnswer a s).frame = s.frame := rfl
@[simp] theorem giveAnswer_outTag (a : Answer) (s : State) : (giveAnswer a s).outTag = s.outTag := rfl
@[simp] theorem giveAnswer_outStage (a : Answer) (s : State) : (giveAnswer a s).outStage = s.outStage := rfl
@[simp] theorem giveAnswer_dir (a : Answer) (s : State) : (giveAnswer a s).dir = s.dir := rfl
@[simp] theorem giveAnswer_lvl (a : Answer) (s : State) : (giveAnswer a s).lvl = s.lvl := rfl
@[simp] theorem giveAnswer_led (a : Answer) (s : State) : (giveAnswer a s).led = s.led := rfl
@[simp] theorem giveAnswer_line (a : Answer) (s : State) : (giveAnswer a s).line = s.line := rfl
@[simp] theorem giveAnswer_ticks (a : Answer) (s : State) : (giveAnswer a s).ticks = s.ticks := rfl
@[simp] theorem giveAnswer_dlyPending (a : Answer) (s : State) : (giveAnswer a s).dlyPending = s.dlyPending := rfl
@[simp] theorem giveAnswer_dlyMs (a : Answer) (s : State) : (giveAnswer a s).dlyMs = s.dlyMs := rfl
@[simp] theorem giveAnswer_params (a : Answer) (s : State) : (giveAnswer a s).params = s.params := rfl
@[simp] theorem giveAnswer_answer (a : Answer) (s : State) : (giveAnswer a s).answer = a := rfl
@[simp] theorem giveAnswer_moves (a : Answer) (s : State) : (giveAnswer a s).moves = s.moves := rfl
@[simp] theorem giveAnswer_draws (a : Answer) (s : State) : (giveAnswer a s).draws = s.draws := rfl

/-! ### clearProgress -/

@[simp] theorem clearProgress_phase (s : State) : (clearProgress s).phase = s.phase := rfl
@[simp] theorem clearProgress_sub (s : State) : (clearProgress s).sub = s.sub := rfl
@[simp] theorem clearProgress_n (s : State) : (clearProgress s).n = 0#6 := rfl
@[simp] theorem clearProgress_frame (s : State) : (clearProgress s).frame = Frame.zero := rfl
@[simp] theorem clearProgress_outTag (s : State) : (clearProgress s).outTag = s.outTag := rfl
@[simp] theorem clearProgress_outStage (s : State) : (clearProgress s).outStage = s.outStage := rfl
@[simp] theorem clearProgress_dir (s : State) : (clearProgress s).dir = s.dir := rfl
@[simp] theorem clearProgress_lvl (s : State) : (clearProgress s).lvl = s.lvl := rfl
@[simp] theorem clearProgress_led (s : State) : (clearProgress s).led = s.led := rfl
@[simp] theorem clearProgress_line (s : State) : (clearProgress s).line = s.line := rfl
@[simp] theorem clearProgress_ticks (s : State) : (clearProgress s).ticks = s.ticks := rfl
@[simp] theorem clearProgress_dlyPending (s : State) : (clearProgress s).dlyPending = s.dlyPending := rfl
@[simp] theorem clearProgress_dlyMs (s : State) : (clearProgress s).dlyMs = s.dlyMs := rfl
@[simp] theorem clearProgress_params (s : State) : (clearProgress s).params = s.params := rfl
@[simp] theorem clearProgress_answer (s : State) : (clearProgress s).answer = s.answer := rfl
@[simp] theorem clearProgress_moves (s : State) : (clearProgress s).moves = s.moves := rfl
@[simp] theorem clearProgress_draws (s : State) : (clearProgress s).draws = s.draws := rfl

/-! ### setOutcome -/

@[simp] theorem setOutcome_phase (g : Tag) (h : Stage) (s : State) : (setOutcome g h s).phase = s.phase := rfl
@[simp] theorem setOutcome_sub (g : Tag) (h : Stage) (s : State) : (setOutcome g h s).sub = s.sub := rfl
@[simp] theorem setOutcome_n (g : Tag) (h : Stage) (s : State) : (setOutcome g h s).n = s.n := rfl
@[simp] theorem setOutcome_frame (g : Tag) (h : Stage) (s : State) : (setOutcome g h s).frame = s.frame := rfl
@[simp] theorem setOutcome_outTag (g : Tag) (h : Stage) (s : State) : (setOutcome g h s).outTag = g := rfl
@[simp] theorem setOutcome_outStage (g : Tag) (h : Stage) (s : State) : (setOutcome g h s).outStage = h := rfl
@[simp] theorem setOutcome_dir (g : Tag) (h : Stage) (s : State) : (setOutcome g h s).dir = s.dir := rfl
@[simp] theorem setOutcome_lvl (g : Tag) (h : Stage) (s : State) : (setOutcome g h s).lvl = s.lvl := rfl
@[simp] theorem setOutcome_led (g : Tag) (h : Stage) (s : State) : (setOutcome g h s).led = s.led := rfl
@[simp] theorem setOutcome_line (g : Tag) (h : Stage) (s : State) : (setOutcome g h s).line = s.line := rfl
@[simp] theorem setOutcome_ticks (g : Tag) (h : Stage) (s : State) : (setOutcome g h s).ticks = s.ticks := rfl
@[simp] theorem setOutcome_dlyPending (g : Tag) (h : Stage) (s : State) : (setOutcome g h s).dlyPending = s.dlyPending := rfl
@[simp] theorem setOutcome_dlyMs (g : Tag) (h : Stage) (s : State) : (setOutcome g h s).dlyMs = s.dlyMs := rfl
@[simp] theorem setOutcome_params (g : Tag) (h : Stage) (s : State) : (setOutcome g h s).params = s.params := rfl
@[simp] theorem setOutcome_answer (g : Tag) (h : Stage) (s : State) : (setOutcome g h s).answer = s.answer := rfl
@[simp] theorem setOutcome_moves (g : Tag) (h : Stage) (s : State) : (setOutcome g h s).moves = s.moves := rfl
@[simp] theorem setOutcome_draws (g : Tag) (h : Stage) (s : State) : (setOutcome g h s).draws = s.draws := rfl

/-! ### raiseTimeout -/

@[simp] theorem raiseTimeout_phase (g : Stage) (s : State) : (raiseTimeout g s).phase = 8#4 := rfl
@[simp] theorem raiseTimeout_sub (g : Stage) (s : State) : (raiseTimeout g s).sub = 0#2 := rfl
@[simp] theorem raiseTimeout_n (g : Stage) (s : State) : (raiseTimeout g s).n = 0#6 := rfl
@[simp] theorem raiseTimeout_frame (g : Stage) (s : State) : (raiseTimeout g s).frame = Frame.zero := rfl
@[simp] theorem raiseTimeout_outTag (g : Stage) (s : State) : (raiseTimeout g s).outTag = .timeout := rfl
@[simp] theorem raiseTimeout_outStage (g : Stage) (s : State) : (raiseTimeout g s).outStage = g := rfl
@[simp] theorem raiseTimeout_dir (g : Stage) (s : State) : (raiseTimeout g s).dir = s.dir := rfl
@[simp] theorem raiseTimeout_lvl (g : Stage) (s : State) : (raiseTimeout g s).lvl = s.lvl := rfl
@[simp] theorem raiseTimeout_led (g : Stage) (s : State) : (raiseTimeout g s).led = Config.ledMap 8#4 := rfl
@[simp] theorem raiseTimeout_line (g : Stage) (s : State) : (raiseTimeout g s).line = s.line := rfl
@[simp] theorem raiseTimeout_ticks (g : Stage) (s : State) : (raiseTimeout g s).ticks = s.ticks := rfl
@[simp] theorem raiseTimeout_dlyPending (g : Stage) (s : State) : (raiseTimeout g s).dlyPending = s.dlyPending := rfl
@[simp] theorem raiseTimeout_dlyMs (g : Stage) (s : State) : (raiseTimeout g s).dlyMs = s.dlyMs := rfl
@[simp] theorem raiseTimeout_params (g : Stage) (s : State) : (raiseTimeout g s).params = s.params := rfl
@[simp] theorem raiseTimeout_answer (g : Stage) (s : State) : (raiseTimeout g s).answer = s.answer := rfl
@[simp] theorem raiseTimeout_moves (g : Stage) (s : State) : (raiseTimeout g s).moves = s.moves := rfl
@[simp] theorem raiseTimeout_draws (g : Stage) (s : State) : (raiseTimeout g s).draws = s.draws := rfl

/-! ### beginAttempt -/

@[simp] theorem beginAttempt_phase (s : State) : (beginAttempt s).phase = 1#4 := rfl
@[simp] theorem beginAttempt_sub (s : State) : (beginAttempt s).sub = 0#2 := rfl
@[simp] theorem beginAttempt_n (s : State) : (beginAttempt s).n = 0#6 := rfl
@[simp] theorem beginAttempt_frame (s : State) : (beginAttempt s).frame = Frame.zero := rfl
@[simp] theorem beginAttempt_outTag (s : State) : (beginAttempt s).outTag = .none := rfl
@[simp] theorem beginAttempt_outStage (s : State) : (beginAttempt s).outStage = .ackHigh := rfl
@[simp] theorem beginAttempt_dir (s : State) : (beginAttempt s).dir = s.dir := rfl
@[simp] theorem beginAttempt_lvl (s : State) : (beginAttempt s).lvl = s.lvl := rfl
@[simp] theorem beginAttempt_led (s : State) : (beginAttempt s).led = Config.ledMap 1#4 := rfl
@[simp] theorem beginAttempt_line (s : State) : (beginAttempt s).line = s.line := rfl
@[simp] theorem beginAttempt_ticks (s : State) : (beginAttempt s).ticks = s.ticks := rfl
@[simp] theorem beginAttempt_dlyPending (s : State) : (beginAttempt s).dlyPending = s.dlyPending := rfl
@[simp] theorem beginAttempt_dlyMs (s : State) : (beginAttempt s).dlyMs = s.dlyMs := rfl
@[simp] theorem beginAttempt_params (s : State) : (beginAttempt s).params = s.params := rfl
@[simp] theorem beginAttempt_answer (s : State) : (beginAttempt s).answer = s.answer := rfl
@[simp] theorem beginAttempt_moves (s : State) : (beginAttempt s).moves = s.moves := rfl
@[simp] theorem beginAttempt_draws (s : State) : (beginAttempt s).draws = s.draws := rfl

/-! ### storeBit -/

@[simp] theorem storeBit_phase (s : State) : (storeBit s).phase = s.phase := rfl
@[simp] theorem storeBit_sub (s : State) : (storeBit s).sub = s.sub := rfl
@[simp] theorem storeBit_n (s : State) : (storeBit s).n = s.n := rfl
@[simp] theorem storeBit_frame (s : State) : (storeBit s).frame = pack s.frame s.n.toNat (bitdec s.params.tBit s.ticks) := rfl
@[simp] theorem storeBit_outTag (s : State) : (storeBit s).outTag = s.outTag := rfl
@[simp] theorem storeBit_outStage (s : State) : (storeBit s).outStage = s.outStage := rfl
@[simp] theorem storeBit_dir (s : State) : (storeBit s).dir = s.dir := rfl
@[simp] theorem storeBit_lvl (s : State) : (storeBit s).lvl = s.lvl := rfl
@[simp] theorem storeBit_led (s : State) : (storeBit s).led = s.led := rfl
@[simp] theorem storeBit_line (s : State) : (storeBit s).line = s.line := rfl
@[simp] theorem storeBit_ticks (s : State) : (storeBit s).ticks = s.ticks := rfl
@[simp] theorem storeBit_dlyPending (s : State) : (storeBit s).dlyPending = s.dlyPending := rfl
@[simp] theorem storeBit_dlyMs (s : State) : (storeBit s).dlyMs = s.dlyMs := rfl
@[simp] theorem storeBit_params (s : State) : (storeBit s).params = s.params := rfl
@[simp] theorem storeBit_answer (s : State) : (storeBit s).answer = s.answer := rfl
@[simp] theorem storeBit_moves (s : State) : (storeBit s).moves = s.moves := rfl
@[simp] theorem storeBit_draws (s : State) : (storeBit s).draws = s.draws := rfl

/-! ### timerTick -/

@[simp] theorem timerTick_phase (s : State) : (timerTick s).phase = s.phase := rfl
@[simp] theorem timerTick_sub (s : State) : (timerTick s).sub = s.sub := rfl
@[simp] theorem timerTick_n (s : State) : (timerTick s).n = s.n := rfl
@[simp] theorem timerTick_frame (s : State) : (timerTick s).frame = s.frame := rfl
@[simp] theorem timerTick_outTag (s : State) : (timerTick s).outTag = s.outTag := rfl
@[simp] theorem timerTick_outStage (s : State) : (timerTick s).outStage = s.outStage := rfl
@[simp] theorem timerTick_dir (s : State) : (timerTick s).dir = s.dir := rfl
@[simp] theorem timerTick_lvl (s : State) : (timerTick s).lvl = s.lvl := rfl
@[simp] theorem timerTick_led (s : State) : (timerTick s).led = s.led := rfl
@[simp] theorem timerTick_line (s : State) : (timerTick s).line = s.line := rfl
@[simp] theorem timerTick_ticks (s : State) : (timerTick s).ticks = s.params.wrap (s.ticks + 1) := rfl
@[simp] theorem timerTick_dlyPending (s : State) : (timerTick s).dlyPending = s.dlyPending := rfl
@[simp] theorem timerTick_dlyMs (s : State) : (timerTick s).dlyMs = s.dlyMs := rfl
@[simp] theorem timerTick_params (s : State) : (timerTick s).params = s.params := rfl
@[simp] theorem timerTick_answer (s : State) : (timerTick s).answer = s.answer := rfl
@[simp] theorem timerTick_moves (s : State) : (timerTick s).moves = s.moves := rfl
@[simp] theorem timerTick_draws (s : State) : (timerTick s).draws = s.draws := rfl

/-! ### lineChange -/

@[simp] theorem lineChange_phase (v : Level) (s : State) : (lineChange v s).phase = s.phase := rfl
@[simp] theorem lineChange_sub (v : Level) (s : State) : (lineChange v s).sub = s.sub := rfl
@[simp] theorem lineChange_n (v : Level) (s : State) : (lineChange v s).n = s.n := rfl
@[simp] theorem lineChange_frame (v : Level) (s : State) : (lineChange v s).frame = s.frame := rfl
@[simp] theorem lineChange_outTag (v : Level) (s : State) : (lineChange v s).outTag = s.outTag := rfl
@[simp] theorem lineChange_outStage (v : Level) (s : State) : (lineChange v s).outStage = s.outStage := rfl
@[simp] theorem lineChange_dir (v : Level) (s : State) : (lineChange v s).dir = s.dir := rfl
@[simp] theorem lineChange_lvl (v : Level) (s : State) : (lineChange v s).lvl = s.lvl := rfl
@[simp] theorem lineChange_led (v : Level) (s : State) : (lineChange v s).led = s.led := rfl
@[simp] theorem lineChange_line (v : Level) (s : State) : (lineChange v s).line = v := rfl
@[simp] theorem lineChange_ticks (v : Level) (s : State) : (lineChange v s).ticks = s.ticks := rfl
@[simp] theorem lineChange_dlyPending (v : Level) (s : State) : (lineChange v s).dlyPending = s.dlyPending := rfl
@[simp] theorem lineChange_dlyMs (v : Level) (s : State) : (lineChange v s).dlyMs = s.dlyMs := rfl
@[simp] theorem lineChange_params (v : Level) (s : State) : (lineChange v s).params = s.params := rfl
@[simp] theorem lineChange_answer (v : Level) (s : State) : (lineChange v s).answer = s.answer := rfl
@[simp] theorem lineChange_moves (v : Level) (s : State) : (lineChange v s).moves = s.moves := rfl
@[simp] theorem lineChange_draws (v : Level) (s : State) : (lineChange v s).draws = s.draws := rfl

/-! ### delayComplete -/

@[simp] theorem delayComplete_phase (s : State) : (delayComplete s).phase = s.phase := rfl
@[simp] theorem delayComplete_sub (s : State) : (delayComplete s).sub = s.sub := rfl
@[simp] theorem delayComplete_n (s : State) : (delayComplete s).n = s.n := rfl
@[simp] theorem delayComplete_frame (s : State) : (delayComplete s).frame = s.frame := rfl
@[simp] theorem delayComplete_outTag (s : State) : (delayComplete s).outTag = s.outTag := rfl
@[simp] theorem delayComplete_outStage (s : State) : (delayComplete s).outStage = s.outStage := rfl
@[simp] theorem delayComplete_dir (s : State) : (delayComplete s).dir = s.dir := rfl
@[simp] theorem delayComplete_lvl (s : State) : (delayComplete s).lvl = s.lvl := rfl
@[simp] theorem delayComplete_led (s : State) : (delayComplete s).led = s.led := rfl
@[simp] theorem delayComplete_line (s : State) : (delayComplete s).line = s.line := rfl
@[simp] theorem delayComplete_ticks (s : State) : (delayComplete s).ticks = s.ticks := rfl
@[simp] theorem delayComplete_dlyPending (s : State) : (delayComplete s).dlyPending = false := rfl
@[simp] theorem delayComplete_dlyMs (s : State) : (delayComplete s).dlyMs = s.dlyMs := rfl
@[simp] theorem delayComplete_params (s : State) : (delayComplete s).params = s.params := rfl
@[simp] theorem delayComplete_answer (s : State) : (delayComplete s).answer = s.answer := rfl
@[simp] theorem delayComplete_moves (s : State) : (delayComplete s).moves = s.moves := rfl
@[simp] theorem delayComplete_draws (s : State) : (delayComplete s).draws = s.draws := rfl

/-! ### applyReset -/

@[simp] theorem applyReset_phase (s : State) : (applyReset s).phase = 0#4 := rfl
@[simp] theorem applyReset_sub (s : State) : (applyReset s).sub = 0#2 := rfl
@[simp] theorem applyReset_n (s : State) : (applyReset s).n = 0#6 := rfl
@[simp] theorem applyReset_frame (s : State) : (applyReset s).frame = Frame.zero := rfl
@[simp] theorem applyReset_outTag (s : State) : (applyReset s).outTag = .none := rfl
@[simp] theorem applyReset_outStage (s : State) : (applyReset s).outStage = .ackHigh := rfl
@[simp] theorem applyReset_dir (s : State) : (applyReset s).dir = .input := rfl
@[simp] theorem applyReset_lvl (s : State) : (applyReset s).lvl = .high := rfl
@[simp] theorem applyReset_led (s : State) : (applyReset s).led = Config.ledMap 0#4 := rfl
@[simp] theorem applyReset_line (s : State) : (applyReset s).line = Config.freeLine s.draws := rfl
@[simp] theorem applyReset_ticks (s : State) : (applyReset s).ticks = s.params.wrap (Config.freeTicks s.draws) := rfl
@[simp] theorem applyReset_dlyPending (s : State) : (applyReset s).dlyPending = false := rfl
@[simp] theorem applyReset_dlyMs (s : State) : (applyReset s).dlyMs = Config.freeDelay s.draws := rfl
@[simp] theorem applyReset_params (s : State) : (applyReset s).params = s.params := rfl
@[simp] theorem applyReset_answer (s : State) : (applyReset s).answer = s.answer := rfl
@[simp] theorem applyReset_moves (s : State) : (applyReset s).moves = s.moves := rfl
@[simp] theorem applyReset_draws (s : State) : (applyReset s).draws = s.draws + 1 := rfl

/-! ### takeMove: only the schedule and the count of draws change -/

@[simp] theorem takeMove_phase (s : State) : (takeMove s).phase = s.phase := by
  unfold takeMove; split <;> rfl
@[simp] theorem takeMove_sub (s : State) : (takeMove s).sub = s.sub := by
  unfold takeMove; split <;> rfl
@[simp] theorem takeMove_n (s : State) : (takeMove s).n = s.n := by
  unfold takeMove; split <;> rfl
@[simp] theorem takeMove_frame (s : State) : (takeMove s).frame = s.frame := by
  unfold takeMove; split <;> rfl
@[simp] theorem takeMove_outTag (s : State) : (takeMove s).outTag = s.outTag := by
  unfold takeMove; split <;> rfl
@[simp] theorem takeMove_outStage (s : State) : (takeMove s).outStage = s.outStage := by
  unfold takeMove; split <;> rfl
@[simp] theorem takeMove_dir (s : State) : (takeMove s).dir = s.dir := by
  unfold takeMove; split <;> rfl
@[simp] theorem takeMove_lvl (s : State) : (takeMove s).lvl = s.lvl := by
  unfold takeMove; split <;> rfl
@[simp] theorem takeMove_led (s : State) : (takeMove s).led = s.led := by
  unfold takeMove; split <;> rfl
@[simp] theorem takeMove_line (s : State) : (takeMove s).line = s.line := by
  unfold takeMove; split <;> rfl
@[simp] theorem takeMove_ticks (s : State) : (takeMove s).ticks = s.ticks := by
  unfold takeMove; split <;> rfl
@[simp] theorem takeMove_dlyPending (s : State) : (takeMove s).dlyPending = s.dlyPending := by
  unfold takeMove; split <;> rfl
@[simp] theorem takeMove_dlyMs (s : State) : (takeMove s).dlyMs = s.dlyMs := by
  unfold takeMove; split <;> rfl
@[simp] theorem takeMove_params (s : State) : (takeMove s).params = s.params := by
  unfold takeMove; split <;> rfl
@[simp] theorem takeMove_answer (s : State) : (takeMove s).answer = s.answer := by
  unfold takeMove; split <;> rfl

theorem nextMove_of_cons (s : State) (m : Move) (rest : List Move) (h : s.moves = m :: rest) : nextMove s = m := by
  simp [nextMove, h]

theorem takeMove_of_cons (s : State) (m : Move) (rest : List Move) (h : s.moves = m :: rest) :
    takeMove s = { s with moves := rest } := by
  simp [takeMove, h]

end Sys2Proof.Machine
end

