-- ==== Sys2Proof/Laws/Ops.lean ====
section
/-! SUPPORT. One lemma per shared operation: everything it can do. -/

namespace Sys2Proof.Machine

/-! ### The poll -/

theorem poll_hit {awaited : Level} {budget : Option Nat} {s : State} (h : s.line = awaited) :
    poll awaited budget s = .hit := by
  simp [poll, readLevel, h]

theorem poll_none {awaited : Level} {s : State} (h : s.line ≠ awaited) : poll awaited none s = .wait := by
  simp [poll, readLevel, h]

theorem poll_timeout {awaited : Level} {t : Nat} {s : State} (h : s.line ≠ awaited) (ht : t < s.ticks) :
    poll awaited (some t) s = .timeout := by
  simp [poll, readLevel, elapsedTicks, h, ht]

theorem poll_wait {awaited : Level} {t : Nat} {s : State} (h : s.line ≠ awaited) (ht : s.ticks ≤ t) :
    poll awaited (some t) s = .wait := by
  simp [poll, readLevel, elapsedTicks, h, Nat.not_lt.2 ht]

/-- Everything a poll can answer. -/
theorem poll_cases (awaited : Level) (budget : Option Nat) (s : State) :
    (s.line = awaited ∧ poll awaited budget s = .hit) ∨
    (s.line ≠ awaited ∧ (∃ t, budget = some t ∧ t < s.ticks) ∧ poll awaited budget s = .timeout) ∨
    (s.line ≠ awaited ∧ (∀ t, budget = some t → s.ticks ≤ t) ∧ poll awaited budget s = .wait) := by
  by_cases h : s.line = awaited
  · exact .inl ⟨h, poll_hit h⟩
  · cases budget with
    | none => exact .inr (.inr ⟨h, by simp, poll_none h⟩)
    | some t =>
      by_cases ht : t < s.ticks
      · exact .inr (.inl ⟨h, ⟨t, rfl, ht⟩, poll_timeout h ht⟩)
      · refine .inr (.inr ⟨h, ?_, poll_wait h (by omega)⟩)
        rintro u rfl'
        cases rfl'
        omega

/-! ### Bits of a byte, bytes of a frame -/

theorem setBit_getLsbD (x : Byte) (k j : Nat) (b : Bool) (hj : j < 8) :
    (setBit x k b).getLsbD j = if j = k then b else x.getLsbD j := by
  by_cases h : j = k <;> cases b <;> simp [setBit, BitVec.getLsbD_one, h] <;> omega

theorem Frame.byte_setByte (f : Frame) (i j : Nat) (v : Byte) (hi : i < 5) :
    (f.setByte i v).byte j = if j = i then v else f.byte j := by
  obtain rfl | rfl | rfl | rfl | rfl : i = 0 ∨ i = 1 ∨ i = 2 ∨ i = 3 ∨ i = 4 := by omega
  all_goals
    by_cases h : j = 0 ∨ j = 1 ∨ j = 2 ∨ j = 3 ∨ j = 4
    · obtain rfl | rfl | rfl | rfl | rfl := h <;> simp [Frame.setByte, Frame.byte]
    · have h' : j ≠ 0 ∧ j ≠ 1 ∧ j ≠ 2 ∧ j ≠ 3 ∧ j ≠ 4 := by omega
      simp [Frame.byte, h']

/-! ### One move -/

theorem reservedFault_of_legal {s : State} (hp : PositionLegal s) (hn : s.n.toNat < 40) : reservedFault s = none := by
  have h : ∀ w ∈ [0x00#6, 0x04#6, 0x05#6, 0x08#6, 0x09#6, 0x0A#6, 0x0C#6, 0x10#6, 0x14#6, 0x18#6, 0x1C#6, 0x20#6],
      ∃ i, decodeSeq w = .ok i := by
    intro w hw
    simp only [List.mem_cons, List.not_mem_nil, or_false] at hw
    rcases hw with rfl | rfl | rfl | rfl | rfl | rfl | rfl | rfl | rfl | rfl | rfl | rfl <;> exact ⟨_, rfl⟩
  obtain ⟨i, hi⟩ := h _ hp
  simp [reservedFault, hi, hn]

/-- In a state that holds no reserved value a move is simply taken. -/
theorem takeStep_of_legal {s : State} {m : Move} (h : reservedFault s = none) : takeStep m s = runMove m s := by
  unfold takeStep
  split
  · rfl
  · rw [h]

/-- A step over a scheduled move. -/
theorem step_of_cons {s : State} {m : Move} {rest : List Move} (h : s.moves = m :: rest) :
    step s = takeStep m { s with moves := rest } := by
  simp [step, nextMove_of_cons s m rest h, takeMove_of_cons s m rest h]

/-- What a move can answer: a next state through one agent's operation or through one executed instruction. -/
theorem takeStep_next_cases {s t : State} {m : Move} (h : takeStep m s = .next t) :
    (m = .rst ∧ t = applyReset s) ∨ (m = .tick ∧ t = timerTick s) ∨ (∃ v, m = .line v ∧ t = lineChange v s) ∨
    (m = .delayDone ∧ t = delayComplete s) ∨
    (∃ a v, m = .hostWrite a v ∧ decode (.hostWrite a v) = .error .notACommand ∧ t = s) ∨
    (∃ c i, fetch m s = some c ∧ decode c = .ok i ∧ exec i s = .next t ∧ reservedFault s = none) := by
  have key : ∀ c, fetch m s = some c → reservedFault s = none → runCode c s = .next t →
      (decode c = .error .notACommand ∧ t = s) ∨
      (∃ c i, fetch m s = some c ∧ decode c = .ok i ∧ exec i s = .next t ∧ reservedFault s = none) := by
    intro c hc hr hrun
    unfold runCode at hrun
    split at hrun
    · exact .inr ⟨c, _, hc, ‹_›, hrun, hr⟩
    · cases hrun
      exact .inl ⟨‹_›, rfl⟩
    · cases hrun
    · cases hrun
  have noCmd : ∀ c, decode c = .error .notACommand → ∃ a v, c = .hostWrite a v := by
    intro c hc
    cases c with
    | hostWrite a v => exact ⟨a, v, rfl⟩
    | seq w =>
      simp only [decode, decodeSeq] at hc
      split at hc <;> simp at hc
    | hostRead a => cases hc
    | bitdec w => cases hc
    | pack w =>
      simp only [decode, decodePack] at hc
      split at hc <;> simp at hc
    | chksum w => cases hc
  unfold takeStep at h
  split at h
  · subst m
    cases h
    exact .inl ⟨rfl, rfl⟩
  · split at h
    · cases h
    · rename_i hr
      cases m with
      | rst => cases h; exact .inl ⟨rfl, rfl⟩
      | tick => cases h; exact .inr (.inl ⟨rfl, rfl⟩)
      | line v => cases h; exact .inr (.inr (.inl ⟨v, rfl, rfl⟩))
      | delayDone => cases h; exact .inr (.inr (.inr (.inl ⟨rfl, rfl⟩)))
      | hostWrite a v =>
        rcases key _ rfl hr h with ⟨hd, ht⟩ | hx
        · exact .inr (.inr (.inr (.inr (.inl ⟨a, v, rfl, hd, ht⟩))))
        · exact .inr (.inr (.inr (.inr (.inr hx))))
      | core | hostRead a | evalBitdec w | evalPack w | evalChksum w =>
        rcases key _ rfl hr h with ⟨hd, -⟩ | hx
        · obtain ⟨a, v, hc⟩ := noCmd _ hd
          cases hc
        · exact .inr (.inr (.inr (.inr (.inr hx))))

end Sys2Proof.Machine
end

