-- ==== Sys2Proof/Laws/Exec.lean ====
section
/-! SUPPORT. One inversion lemma per instruction: if it answers a next state, what that state is. And that no instruction reads
or writes the model's schedule, from which a run over a schedule is a run of the moves themselves. -/

namespace Sys2Proof.Machine

theorem execStartHold_cases {s t : State} (h : execStartHold s = .next t) :
    (s.dlyPending = false ∧ t = enterPhase Phase.release s) ∨ (s.dlyPending = true ∧ t = s) := by
  unfold execStartHold delayDone at h
  cases hd : s.dlyPending <;> simp [hd] at h
  · exact .inl ⟨rfl, h.symm⟩
  · exact .inr ⟨rfl, h.symm⟩

theorem execReleasePoll_cases {s t : State} (h : execReleasePoll s = .next t) :
    (s.line = .low ∧ t = timerReset (enterPhase Phase.ackhigh s)) ∨ (s.line = .high ∧ t = s) := by
  unfold execReleasePoll at h
  cases hl : s.line with
  | low => rw [poll_hit hl] at h; cases h; exact .inl ⟨rfl, rfl⟩
  | high => rw [poll_none (by simp [hl])] at h; cases h; exact .inr ⟨rfl, rfl⟩

theorem execAckhighPoll_cases {s t : State} (h : execAckhighPoll s = .next t) :
    (s.line = .high ∧ t = timerReset (changePhase Phase.acklow s)) ∨
    (s.line = .low ∧ s.params.tAck < s.ticks ∧ t = raiseTimeout .ackHigh s) ∨
    (s.line = .low ∧ s.ticks ≤ s.params.tAck ∧ t = s) := by
  unfold execAckhighPoll at h
  have low : s.line ≠ .high → s.line = .low := by cases s.line <;> simp
  rcases poll_cases .high (some s.params.tAck) s with ⟨hl, hp⟩ | ⟨hl, ⟨u, hu, ht⟩, hp⟩ | ⟨hl, ht, hp⟩ <;>
    rw [hp] at h <;> cases h
  · exact .inl ⟨hl, rfl⟩
  · cases hu; exact .inr (.inl ⟨low hl, ht, rfl⟩)
  · exact .inr (.inr ⟨low hl, ht _ rfl, rfl⟩)

theorem execAcklowPoll_cases {s t : State} (h : execAcklowPoll s = .next t) :
    (s.line = .low ∧ t = timerReset (changePhase Phase.bithigh { s with n := 0#6 })) ∨
    (s.line = .high ∧ s.params.tAck < s.ticks ∧ t = raiseTimeout .ackLow s) ∨
    (s.line = .high ∧ s.ticks ≤ s.params.tAck ∧ t = s) := by
  unfold execAcklowPoll at h
  have high : s.line ≠ .low → s.line = .high := by cases s.line <;> simp
  rcases poll_cases .low (some s.params.tAck) s with ⟨hl, hp⟩ | ⟨hl, ⟨u, hu, ht⟩, hp⟩ | ⟨hl, ht, hp⟩ <;>
    rw [hp] at h <;> cases h
  · exact .inl ⟨hl, rfl⟩
  · cases hu; exact .inr (.inl ⟨high hl, ht, rfl⟩)
  · exact .inr (.inr ⟨high hl, ht _ rfl, rfl⟩)

theorem execBithighPoll_cases {s t : State} (h : execBithighPoll s = .next t) :
    (s.line = .high ∧ t = timerReset (changePhase Phase.pulse s)) ∨
    (s.line = .low ∧ s.params.tBitWait < s.ticks ∧ t = raiseTimeout .bitHigh s) ∨
    (s.line = .low ∧ s.ticks ≤ s.params.tBitWait ∧ t = s) := by
  unfold execBithighPoll at h
  have low : s.line ≠ .high → s.line = .low := by cases s.line <;> simp
  rcases poll_cases .high (some s.params.tBitWait) s with ⟨hl, hp⟩ | ⟨hl, ⟨u, hu, ht⟩, hp⟩ | ⟨hl, ht, hp⟩ <;>
    rw [hp] at h <;> cases h
  · exact .inl ⟨hl, rfl⟩
  · cases hu; exact .inr (.inl ⟨low hl, ht, rfl⟩)
  · exact .inr (.inr ⟨low hl, ht _ rfl, rfl⟩)

theorem execPulsePoll_cases {s t : State} (h : execPulsePoll s = .next t) :
    (s.line = .high ∧ t = s) ∨
    (s.line = .low ∧ s.n.toNat < 39 ∧
      t = timerReset (changePhase Phase.bithigh { storeBit s with n := s.n + 1#6 })) ∨
    (s.line = .low ∧ s.n.toNat = 39 ∧ t = changePhase Phase.complete (setOutcome .frame .ackHigh (storeBit s))) := by
  unfold execPulsePoll readLevel at h
  cases hl : s.line <;> simp only [hl] at h
  · split at h
    · cases h; exact .inr (.inl ⟨rfl, ‹_›, rfl⟩)
    · split at h
      · cases h; exact .inr (.inr ⟨rfl, ‹_›, rfl⟩)
      · cases h
  · cases h; exact .inl ⟨rfl, rfl⟩

theorem execCmdStart_cases {s t : State} (h : execCmdStart s = .next t) :
    (busy s = true ∧ t = s) ∨ (busy s = false ∧ t = beginAttempt s) := by
  unfold execCmdStart at h
  cases hb : busy s <;> simp [hb] at h
  · exact .inr ⟨rfl, h.symm⟩
  · exact .inl ⟨rfl, h.symm⟩

theorem execPack_cases {n : BitVec 6} {b : Bool} {s t : State} (h : execPack n b s = .next t) :
    n.toNat < 40 ∧ t = giveAnswer (.frame (pack s.frame n.toNat b)) s := by
  unfold execPack at h
  split at h
  · cases h; exact ⟨‹_›, rfl⟩
  · cases h

/-! ### The schedule is nothing to an instruction -/

/-- An outcome with another schedule in its next state. -/
def withMoves (ms : List Move) : Result → Result
  | .next t => .next { t with moves := ms }
  | .fault f => .fault f
  | .refused r => .refused r

theorem withMoves_ite (ms : List Move) (c : Prop) [Decidable c] (x y : Result) :
    withMoves ms (if c then x else y) = if c then withMoves ms x else withMoves ms y := by
  split <;> rfl

theorem exec_withMoves (i : Instr) (s : State) (ms : List Move) :
    exec i { s with moves := ms } = withMoves ms (exec i s) := by
  have hp : ∀ awaited budget, poll awaited budget { s with moves := ms } = poll awaited budget s := fun _ _ => rfl
  cases i
  case startHold => simp only [exec, execStartHold, withMoves_ite]; rfl
  case releasePoll => simp only [exec, execReleasePoll, hp]; split <;> rfl
  case ackhighPoll => simp only [exec, execAckhighPoll, hp]; split <;> rfl
  case acklowPoll => simp only [exec, execAcklowPoll, hp]; split <;> rfl
  case bithighPoll => simp only [exec, execBithighPoll, hp]; split <;> rfl
  case pulsePoll =>
    have hlv : ∀ v : Level, v = .low ∨ v = .high := by intro v; cases v <;> simp
    rcases hlv s.line with hl | hl
    · have h : ∀ u : State, u.line = .low → execPulsePoll u =
          if u.n.toNat < 39 then
            .next (timerReset (changePhase Phase.bithigh { storeBit u with n := u.n + 1#6 }))
          else if u.n.toNat = 39 then
            .next (changePhase Phase.complete (setOutcome .frame .ackHigh (storeBit u)))
          else .fault .reservedBitCount := by
        intro u hu
        simp only [execPulsePoll, readLevel, hu]
      have h' := h { s with moves := ms } hl
      simp only [exec, h s hl, withMoves_ite]
      exact h'
    · have h : ∀ u : State, u.line = .high → execPulsePoll u = .next u := by
        intro u hu
        simp only [execPulsePoll, readLevel, hu]
      have h' := h { s with moves := ms } hl
      simp only [exec, h s hl]
      exact h'
  case cmdStart => simp only [exec, execCmdStart, withMoves_ite]; rfl
  case pack => simp only [exec, execPack, withMoves_ite]; rfl
  all_goals rfl

theorem takeStep_withMoves (m : Move) (s : State) (ms : List Move) :
    takeStep m { s with moves := ms } = withMoves ms (takeStep m s) := by
  have hr : reservedFault { s with moves := ms } = reservedFault s := rfl
  have hc : ∀ c, runCode c { s with moves := ms } = withMoves ms (runCode c s) := by
    intro c
    unfold runCode
    split
    · exact exec_withMoves _ _ _
    all_goals rfl
  have hm : runMove m { s with moves := ms } = withMoves ms (runMove m s) := by
    cases m <;> first | rfl | exact hc _
  unfold takeStep
  rw [hr]
  split
  · exact hm
  · split
    · rfl
    · exact hm

theorem takeStep_moves {m : Move} {s t : State} (h : takeStep m s = .next t) : t.moves = s.moves := by
  have := takeStep_withMoves m s s.moves
  rw [show { s with moves := s.moves } = s from rfl, h] at this
  simp only [withMoves, Host.Outcome.next.injEq] at this
  rw [this]

/-- A run over a schedule is the run of its moves, in the state that has the rest of the schedule left. -/
theorem run_scheduled (ms rest : List Move) (s : State) (h : s.moves = ms ++ rest) :
    Host.Core.run Sys2Proof.core ms.length s = runMoves ms { s with moves := rest } := by
  induction ms generalizing s with
  | nil =>
    cases h
    rfl
  | cons m ms ih =>
    have hs : step s = takeStep m { s with moves := ms ++ rest } := step_of_cons h
    have hw : takeStep m { s with moves := rest } = withMoves rest (takeStep m { s with moves := ms ++ rest }) :=
      takeStep_withMoves m { s with moves := ms ++ rest } rest
    simp only [List.length_cons, Host.Core.run, Sys2Proof.core, runMoves, hs, hw]
    cases ho : takeStep m { s with moves := ms ++ rest } with
    | next t => exact ih t (takeStep_moves ho)
    | fault f => rfl
    | refused r => rfl

theorem runMoves_append (ms ms' : List Move) (s t : State) (h : runMoves ms s = .next t) :
    runMoves (ms ++ ms') s = runMoves ms' t := by
  induction ms generalizing s with
  | nil => cases h; rfl
  | cons m ms ih =>
    simp only [runMoves, List.cons_append] at h ⊢
    cases ho : takeStep m s with
    | next u => rw [ho] at h; exact ih u h
    | fault f => rw [ho] at h; cases h
    | refused r => rw [ho] at h; cases h

end Sys2Proof.Machine
end

