-- ==== Sys2Proof/Laws/PerInstr.lean ====
section
/-! SUPPORT. Statements made per instruction: the encoding of an instruction selects an operation exactly when the instruction
is well formed. -/

namespace Sys2Proof.Laws.SelectsWhenWellFormed

def Statement (i : Instr) : Prop := (encode i).selects = i.wellFormed

theorem idleWait : Statement .idleWait := rfl
theorem startDrive : Statement .startDrive := rfl
theorem startHold : Statement .startHold := rfl
theorem releaseHigh : Statement .releaseHigh := rfl
theorem releaseFloat : Statement .releaseFloat := rfl
theorem releasePoll : Statement .releasePoll := rfl
theorem ackhighPoll : Statement .ackhighPoll := rfl
theorem acklowPoll : Statement .acklowPoll := rfl
theorem bithighPoll : Statement .bithighPoll := rfl
theorem pulsePoll : Statement .pulsePoll := rfl
theorem completeHold : Statement .completeHold := rfl
theorem failedHold : Statement .failedHold := rfl
theorem cmdStart : Statement .cmdStart := rfl
theorem hostRd (addr : BitVec 4) : Statement (.hostRd addr) := rfl
theorem bitdec (e : BitVec 8) : Statement (.bitdec e) := rfl

theorem pack (n : BitVec 6) (b : Bool) : Statement (.pack n b) := by
  have h : (n ++ BitVec.ofBool b).extractLsb' 1 6 = n := by
    revert n b
    decide
  simp only [Statement, encode, Code.selects, decode, decodePack, h, Instr.wellFormed]
  by_cases hn : n.toNat < 40 <;> simp [hn]

theorem chksum (h g t u c : Byte) : Statement (.chksum h g t u c) := rfl

end Sys2Proof.Laws.SelectsWhenWellFormed
end

