-- ==== Sys2Proof/Laws/Position.lean ====
section
/-! SUPPORT. The twelve legal positions of the sequencer, and what a core step executes at each. -/

namespace Sys2Proof.Machine

/-- A state without a reserved value stands at a legal position with a legal count. -/
theorem legal_of_reservedFault {s : State} (h : reservedFault s = none) : PositionLegal s ∧ s.n.toNat < 40 := by
  unfold reservedFault at h
  split at h
  · cases h
  · rename_i i hi
    split at h
    · have k : ∀ w : BitVec 6, (match decodeSeq w with | .ok _ => true | .error _ => false) = true → w ∈
          [0x00#6, 0x04#6, 0x05#6, 0x08#6, 0x09#6, 0x0A#6, 0x0C#6, 0x10#6, 0x14#6, 0x18#6, 0x1C#6, 0x20#6] := by
        decide
      exact ⟨k _ (by rw [hi]), ‹_›⟩
    · cases h

theorem reservedFault_eq_none {s : State} : reservedFault s = none ↔ PositionLegal s ∧ s.n.toNat < 40 :=
  ⟨legal_of_reservedFault, fun h => reservedFault_of_legal h.1 h.2⟩

/-- The twelve legal positions, R63. -/
theorem position_cases {s : State} (h : PositionLegal s) :
    s.isAt 0#4 0#2 ∨ s.isAt 1#4 0#2 ∨ s.isAt 1#4 1#2 ∨ s.isAt 2#4 0#2 ∨ s.isAt 2#4 1#2 ∨ s.isAt 2#4 2#2 ∨
      s.isAt 3#4 0#2 ∨ s.isAt 4#4 0#2 ∨ s.isAt 5#4 0#2 ∨ s.isAt 6#4 0#2 ∨ s.isAt 7#4 0#2 ∨ s.isAt 8#4 0#2 := by
  have k : ∀ (p : BitVec 4) (q : BitVec 2), seqWord p q ∈
      [0x00#6, 0x04#6, 0x05#6, 0x08#6, 0x09#6, 0x0A#6, 0x0C#6, 0x10#6, 0x14#6, 0x18#6, 0x1C#6, 0x20#6] →
      (p = 0#4 ∧ q = 0#2) ∨ (p = 1#4 ∧ q = 0#2) ∨ (p = 1#4 ∧ q = 1#2) ∨ (p = 2#4 ∧ q = 0#2) ∨
      (p = 2#4 ∧ q = 1#2) ∨ (p = 2#4 ∧ q = 2#2) ∨ (p = 3#4 ∧ q = 0#2) ∨ (p = 4#4 ∧ q = 0#2) ∨
      (p = 5#4 ∧ q = 0#2) ∨ (p = 6#4 ∧ q = 0#2) ∨ (p = 7#4 ∧ q = 0#2) ∨ (p = 8#4 ∧ q = 0#2) := by
    decide
  exact k _ _ h

theorem seq_of_isAt {s : State} {p : BitVec 4} {q : BitVec 2} (h : s.isAt p q) : s.seq = seqWord p q := by
  rw [State.seq, h.1, h.2]

theorem positionLegal_of_isAt {s : State} {p : BitVec 4} {q : BitVec 2} (h : s.isAt p q)
    (hm : seqWord p q ∈
      [0x00#6, 0x04#6, 0x05#6, 0x08#6, 0x09#6, 0x0A#6, 0x0C#6, 0x10#6, 0x14#6, 0x18#6, 0x1C#6, 0x20#6]) :
    PositionLegal s := by
  unfold PositionLegal
  rw [seq_of_isAt h]
  exact hm

/-- A core step at a legal position executes that position's op. -/
theorem takeStep_core_of_isAt {s : State} {p : BitVec 4} {q : BitVec 2} {i : Instr} (h : s.isAt p q)
    (hn : s.n.toNat < 40) (hd : decodeSeq (seqWord p q) = .ok i)
    (hm : seqWord p q ∈
      [0x00#6, 0x04#6, 0x05#6, 0x08#6, 0x09#6, 0x0A#6, 0x0C#6, 0x10#6, 0x14#6, 0x18#6, 0x1C#6, 0x20#6]) :
    takeStep .core s = exec i s := by
  rw [takeStep_of_legal (reservedFault_of_legal (positionLegal_of_isAt h hm) hn)]
  simp [runMove, runCode, decode, seq_of_isAt h, hd]

/-- The op a legal `SEQ` selects, by position. -/
theorem decodeSeq_cases {s : State} {i : Instr} (h : decodeSeq s.seq = .ok i) :
    (s.isAt 0#4 0#2 ∧ i = .idleWait) ∨ (s.isAt 1#4 0#2 ∧ i = .startDrive) ∨ (s.isAt 1#4 1#2 ∧ i = .startHold) ∨
    (s.isAt 2#4 0#2 ∧ i = .releaseHigh) ∨ (s.isAt 2#4 1#2 ∧ i = .releaseFloat) ∨
    (s.isAt 2#4 2#2 ∧ i = .releasePoll) ∨ (s.isAt 3#4 0#2 ∧ i = .ackhighPoll) ∨
    (s.isAt 4#4 0#2 ∧ i = .acklowPoll) ∨ (s.isAt 5#4 0#2 ∧ i = .bithighPoll) ∨
    (s.isAt 6#4 0#2 ∧ i = .pulsePoll) ∨ (s.isAt 7#4 0#2 ∧ i = .completeHold) ∨
    (s.isAt 8#4 0#2 ∧ i = .failedHold) := by
  have k : ∀ w : BitVec 6, (match decodeSeq w with | .ok _ => true | .error _ => false) = true → w ∈
      [0x00#6, 0x04#6, 0x05#6, 0x08#6, 0x09#6, 0x0A#6, 0x0C#6, 0x10#6, 0x14#6, 0x18#6, 0x1C#6, 0x20#6] := by
    decide
  have hp : PositionLegal s := k _ (by rw [h])
  rcases position_cases hp with hh | hh | hh | hh | hh | hh | hh | hh | hh | hh | hh | hh <;>
    rw [seq_of_isAt hh] at h <;> cases h <;> simp <;> exact hh

/-- What a core step can be: one of the twelve ops at its position. -/
theorem takeStep_core_cases {s t : State} (h : takeStep .core s = .next t) :
    s.n.toNat < 40 ∧ ∃ i, decodeSeq s.seq = .ok i ∧ exec i s = .next t := by
  rcases takeStep_next_cases h with ⟨hc, _⟩ | ⟨hc, _⟩ | ⟨_, hc, _⟩ | ⟨hc, _⟩ | ⟨_, _, hc, _⟩ |
    ⟨c, i, hf, hd, he, hr⟩
  all_goals first | cases hc | skip
  cases hf
  exact ⟨(legal_of_reservedFault hr).2, i, hd, he⟩

end Sys2Proof.Machine
end

