-- ==== Sys2Proof/Laws/Runs.lean ====
section
/-! SUPPORT. What an executed instruction can be, runs over gaps between core steps, and polls that only wait. -/

namespace Sys2Proof.Machine

/-- What an executed instruction can have been: the sequencer's op in a core step, or one of the words a move carries. -/
theorem fetch_cases {m : Move} {s : State} {c : Code} {i : Instr} (hf : fetch m s = some c) (hd : decode c = .ok i) :
    (m = .core ∧ decodeSeq s.seq = .ok i) ∨ (i = .cmdStart ∧ IsStartCommand m) ∨ (∃ a, i = .hostRd a) ∨
    (∃ e, i = .bitdec e) ∨ (∃ n b, i = .pack n b) ∨ (∃ h g u v c, i = .chksum h g u v c) := by
  cases m <;> simp only [fetch, Option.some.injEq, reduceCtorEq] at hf <;> subst hf
  · exact .inl ⟨rfl, hd⟩
  · simp only [decode, decodeHostWrite] at hd
    split at hd
    · cases hd
      rename_i h
      exact .inr (.inl ⟨rfl, _, by rw [h.1], h.2⟩)
    · cases hd
  · cases hd; simp
  · cases hd; simp
  · simp only [decode, decodePack] at hd
    split at hd
    · cases hd; simp
    · cases hd
  · cases hd; simp [decodeChksum]

/-! ### Gaps between core steps -/

theorem coreSteps_append (a b : List Gap) : coreSteps (a ++ b) = coreSteps a ++ coreSteps b := by
  induction a with
  | nil => rfl
  | cons g a ih => simp [coreSteps, ih]

theorem linesAt_append (a b : List Gap) (l : Level) :
    linesAt l (a ++ b) = linesAt l a ++ linesAt (Gap.lineAfter l a.flatten) b := by
  induction a generalizing l with
  | nil => rfl
  | cons g a ih => simp [linesAt, ih, Gap.lineAfter, List.foldl_append]

theorem linesAt_length (a : List Gap) (l : Level) : (linesAt l a).length = a.length := by
  induction a generalizing l with
  | nil => rfl
  | cons g a ih => simp [linesAt, ih]

/-- Two states that differ at most in what the other agents write between core steps. -/
def EnvOnly (s t : State) : Prop :=
  t = { s with ticks := t.ticks, line := t.line, dlyPending := t.dlyPending, answer := t.answer }

theorem EnvOnly.refl (s : State) : EnvOnly s s := rfl

theorem EnvOnly.trans {s t u : State} (h : EnvOnly s t) (h' : EnvOnly t u) : EnvOnly s u := by
  unfold EnvOnly at *
  rw [h', h]

theorem EnvOnly.phase {s t : State} (h : EnvOnly s t) : t.phase = s.phase := by rw [h]
theorem EnvOnly.sub {s t : State} (h : EnvOnly s t) : t.sub = s.sub := by rw [h]
theorem EnvOnly.n {s t : State} (h : EnvOnly s t) : t.n = s.n := by rw [h]
theorem EnvOnly.frame {s t : State} (h : EnvOnly s t) : t.frame = s.frame := by rw [h]
theorem EnvOnly.outTag {s t : State} (h : EnvOnly s t) : t.outTag = s.outTag := by rw [h]
theorem EnvOnly.outStage {s t : State} (h : EnvOnly s t) : t.outStage = s.outStage := by rw [h]
theorem EnvOnly.dir {s t : State} (h : EnvOnly s t) : t.dir = s.dir := by rw [h]
theorem EnvOnly.lvl {s t : State} (h : EnvOnly s t) : t.lvl = s.lvl := by rw [h]
theorem EnvOnly.params {s t : State} (h : EnvOnly s t) : t.params = s.params := by rw [h]
theorem EnvOnly.moves {s t : State} (h : EnvOnly s t) : t.moves = s.moves := by rw [h]
theorem EnvOnly.reservedFault {s t : State} (h : EnvOnly s t) :
    Machine.reservedFault t = Machine.reservedFault s := by rw [h]; rfl
theorem EnvOnly.busy {s t : State} (h : EnvOnly s t) : Machine.busy t = Machine.busy s := by rw [h]; rfl

theorem Params.wrap_add (p : Params) (a b : Nat) : p.wrap (p.wrap a + b) = p.wrap (a + b) := by
  simp [Params.wrap]

theorem Params.wrap_of_lt {p : Params} {a : Nat} (h : a < 2 ^ p.tickW) : p.wrap a = a := Nat.mod_eq_of_lt h

theorem Params.wrap_lt (p : Params) (a : Nat) : p.wrap a < 2 ^ p.tickW := Nat.mod_lt _ (Nat.two_pow_pos _)

/-- Everything one move between core steps of a running attempt can do. -/
theorem takeStep_between {m : Move} {s : State} (hr : reservedFault s = none) (hb : busy s = true)
    (hm : m.betweenCoreSteps = true) :
    ∃ t, takeStep m s = .next t ∧ EnvOnly s t ∧ t.line = m.lineAfter s.line ∧
      t.dlyPending = (s.dlyPending && !decide (m = .delayDone)) ∧
      (s.ticks < 2 ^ s.params.tickW → t.ticks = s.params.wrap (s.ticks + if m = .tick then 1 else 0)) := by
  rw [takeStep_of_legal hr]
  cases m <;> simp [Move.betweenCoreSteps] at hm
  case hostWrite a v =>
    refine ⟨s, ?_, .refl s, rfl, by simp, fun h => by simp [Params.wrap_of_lt h]⟩
    simp only [runMove, runCode, decode, decodeHostWrite]
    split <;> rename_i hx <;> split at hx <;> cases hx
    · simp [exec, execCmdStart, hb]
    · rfl
  case delayDone => exact ⟨_, rfl, rfl, rfl, by simp, fun h => by simp [Params.wrap_of_lt h]⟩
  case tick => exact ⟨_, rfl, rfl, rfl, by simp, fun _ => by simp⟩
  case line v => exact ⟨_, rfl, rfl, rfl, by simp, fun h => by simp [Params.wrap_of_lt h]⟩
  case hostRead a => exact ⟨giveAnswer (.byte (memRead s a)) s, rfl, rfl, rfl, by simp, fun h => by simp [Params.wrap_of_lt h]⟩

/-- Everything a gap of a running attempt can do. -/
theorem runMoves_gap (g : Gap) (s : State) (hr : reservedFault s = none) (hb : busy s = true) (hg : g.ok) :
    ∃ t, runMoves g s = .next t ∧ EnvOnly s t ∧ t.line = g.lineAfter s.line ∧
      t.dlyPending = (s.dlyPending && !decide (.delayDone ∈ g)) ∧
      (s.ticks < 2 ^ s.params.tickW → t.ticks = s.params.wrap (s.ticks + g.ticks)) := by
  induction g generalizing s with
  | nil => exact ⟨s, rfl, .refl s, rfl, by simp, fun h => by simp [Gap.ticks, Params.wrap_of_lt h]⟩
  | cons m g ih =>
    obtain ⟨u, hu, e1, l1, d1, t1⟩ := takeStep_between hr hb (hg m (by simp))
    obtain ⟨t, ht, e2, l2, d2, t2⟩ := ih u (e1.reservedFault.trans hr) (e1.busy.trans hb) (fun x hx => hg x (by simp [hx]))
    refine ⟨t, by simp only [runMoves, hu, ht], e1.trans e2, ?_, ?_, ?_⟩
    · rw [l2, l1]
      rfl
    · rw [d2, d1]
      cases s.dlyPending <;> simp [eq_comm]
    · intro h
      rw [t2 (by rw [t1 h, e1.params]; exact Params.wrap_lt _ _), t1 h, e1.params, Params.wrap_add, Nat.add_assoc]
      congr 2
      simp only [Gap.ticks, List.count_cons]
      by_cases hm : m = .tick <;> simp [hm, Nat.add_comm]

/-- Core steps that each leave the state as it is, whatever the other agents did before them. -/
theorem runMoves_waits (gs : List Gap) (s : State) (hr : reservedFault s = none) (hb : busy s = true)
    (hg : ∀ g ∈ gs, g.ok) (ht : s.ticks < 2 ^ s.params.tickW)
    (h : ∀ u, EnvOnly s u → u.line ∈ linesAt s.line gs → (∃ x ∈ countsAt s.ticks gs, u.ticks = s.params.wrap x) →
      (.delayDone ∉ gs.flatten → u.dlyPending = s.dlyPending) →
      takeStep .core u = .next u) :
    ∃ t, runMoves (coreSteps gs) s = .next t ∧ EnvOnly s t ∧ t.line = Gap.lineAfter s.line gs.flatten ∧
      t.dlyPending = (s.dlyPending && !decide (.delayDone ∈ gs.flatten)) ∧
      t.ticks = s.params.wrap (s.ticks + gapTicks gs) := by
  have main : ∀ (gs : List Gap) (v : State) (c : Nat), EnvOnly s v → (∀ g ∈ gs, g.ok) → v.ticks = s.params.wrap c →
      (∀ u, EnvOnly s u → u.line ∈ linesAt v.line gs → (∃ x ∈ countsAt c gs, u.ticks = s.params.wrap x) →
        (.delayDone ∉ gs.flatten → u.dlyPending = v.dlyPending) →
        takeStep .core u = .next u) →
      ∃ t, runMoves (coreSteps gs) v = .next t ∧ EnvOnly s t ∧ t.line = Gap.lineAfter v.line gs.flatten ∧
        t.dlyPending = (v.dlyPending && !decide (.delayDone ∈ gs.flatten)) ∧
        t.ticks = s.params.wrap (c + gapTicks gs) := by
    intro gs
    induction gs with
    | nil => intro v c e _ hv _; exact ⟨v, rfl, e, rfl, by simp, by simp [hv, gapTicks]⟩
    | cons g gs ih =>
      intro v c e hg hv h
      have hlt : v.ticks < 2 ^ v.params.tickW := by rw [hv, e.params]; exact Params.wrap_lt _ _
      obtain ⟨u, hu, e1, l1, d1, t1⟩ :=
        runMoves_gap g v (e.reservedFault.trans hr) (e.busy.trans hb) (hg g (by simp))
      have t1' : u.ticks = s.params.wrap (c + g.ticks) := by rw [t1 hlt, hv, e.params, Params.wrap_add]
      have hcore : takeStep .core u = .next u := by
        refine h u (e.trans e1) (by simp [linesAt, l1]) ⟨c + g.ticks, by simp [countsAt], t1'⟩ ?_
        intro hd
        simp only [List.flatten_cons, List.mem_append, not_or] at hd
        simp [d1, hd.1]
      obtain ⟨t, ht, e2, l2, d2, t2⟩ := ih u (c + g.ticks) (e.trans e1) (fun x hx => hg x (by simp [hx])) t1' (by
        intro w ew lw cw dw
        refine h w ew ?_ ?_ ?_
        · simp only [linesAt, List.mem_cons]
          exact .inr (by rw [← l1]; exact lw)
        · obtain ⟨x, hx, hw⟩ := cw
          exact ⟨x, by simp [countsAt, hx], hw⟩
        · intro hd
          simp only [List.flatten_cons, List.mem_append, not_or] at hd
          rw [dw hd.2, d1]
          simp [hd.1])
      refine ⟨t, ?_, e2, ?_, ?_, ?_⟩
      · rw [coreSteps, runMoves_append _ _ _ _ hu]
        simp only [runMoves, hcore, ht]
      · rw [l2, l1]
        simp [Gap.lineAfter, List.foldl_append]
      · rw [d2, d1]
        cases v.dlyPending <;> simp
      · rw [t2]
        simp [gapTicks, Nat.add_assoc]
  exact main gs s s.ticks (.refl s) hg (Params.wrap_of_lt ht).symm h

/-- From a run of moves to a run over a schedule that begins with them. -/
theorem run_of_runMoves {ms rest : List Move} {s t : State} (hm : s.moves = ms ++ rest)
    (h : runMoves ms { s with moves := rest } = .next t) : Host.Core.run Sys2Proof.core ms.length s = .next t :=
  (run_scheduled ms rest s hm).trans h

/-- Runs compose. -/
theorem run_add (a k : Nat) (s t : State) (h : Host.Core.run Sys2Proof.core a s = .next t) :
    Host.Core.run Sys2Proof.core (a + k) s = Host.Core.run Sys2Proof.core k t := by
  induction a generalizing s with
  | zero => cases h; simp
  | succ a ih =>
    rw [Nat.succ_add]
    simp only [Host.Core.run] at h ⊢
    cases ho : Sys2Proof.core.step s with
    | next u => rw [ho] at h; exact ih u h
    | fault f => rw [ho] at h; cases h
    | refused r => rw [ho] at h; cases h

end Sys2Proof.Machine
end

