-- ==== Sys2Proof/Tests/Slice0.lean ====
section
/-! SUPPORT. The model's own tests: ill-formed terms, words written out from spec/30_encoding.md, the vectors of
spec/95_test_vectors.md, and a witness for the hypotheses of each obligation that has any. -/

namespace Sys2Proof.Tests

open Sys2Proof Sys2Proof.Machine

/-- A state at a position, otherwise as after reset. -/
def st (p : BitVec 4) (q : BitVec 2) (l : Level) (e : Nat) : State :=
  { State.reset with phase := p, sub := q, line := l, ticks := e }

/-- A state in the bit stream at bit `n` with a frame. -/
def stBit (p : BitVec 4) (n : BitVec 6) (f : Frame) (l : Level) (e : Nat) : State :=
  { State.reset with phase := p, n := n, frame := f, line := l, ticks := e }

/-- The first bytes of the frame of S5. -/
def frame35 : Frame := { humidityInt := 35#8, humidityFrac := 0#8, tempInt := 25#8, tempFrac := 0#8, checksum := 60#8 }

/-- A field of the next state, if there is one. -/
def see {α : Type} (f : State → α) : Result → Option α
  | .next t => some (f t)
  | .fault _ => none
  | .refused _ => none

/-! ### WellFormed -/

theorem test_pack_position_40_is_ill_formed : (Instr.pack 40#6 true).wellFormed = false := by decide
theorem test_pack_position_63_is_ill_formed : (Instr.pack 63#6 false).wellFormed = false := by decide
theorem test_pack_position_39_is_well_formed : (Instr.pack 39#6 true).wellFormed = true := by decide

/-! ### Words, from R63, R64, R68, R70 -/

theorem test_word_idle_wait : decode (.seq 0b000000#6) = .ok .idleWait := by decide
theorem test_word_start_drive : decode (.seq 0b000100#6) = .ok .startDrive := by decide
theorem test_word_start_hold : decode (.seq 0b000101#6) = .ok .startHold := by decide
theorem test_word_release_high : decode (.seq 0b001000#6) = .ok .releaseHigh := by decide
theorem test_word_release_float : decode (.seq 0b001001#6) = .ok .releaseFloat := by decide
theorem test_word_release_poll : decode (.seq 0b001010#6) = .ok .releasePoll := by decide
theorem test_word_ackhigh_poll : decode (.seq 0b001100#6) = .ok .ackhighPoll := by decide
theorem test_word_acklow_poll : decode (.seq 0b010000#6) = .ok .acklowPoll := by decide
theorem test_word_bithigh_poll : decode (.seq 0b010100#6) = .ok .bithighPoll := by decide
theorem test_word_pulse_poll : decode (.seq 0b011000#6) = .ok .pulsePoll := by decide
theorem test_word_complete_hold : decode (.seq 0b011100#6) = .ok .completeHold := by decide
theorem test_word_failed_hold : decode (.seq 0b100000#6) = .ok .failedHold := by decide
theorem test_word_reserved_sub : decode (.seq 0b000001#6) = .error .reservedSeq := by decide
theorem test_word_reserved_phase : decode (.seq 0b100100#6) = .error .reservedSeq := by decide
theorem test_word_cmd_start : decode (.hostWrite 0x0#4 0b11111111#8) = .ok .cmdStart := by decide
theorem test_word_no_command : decode (.hostWrite 0x0#4 0b11111110#8) = .error .notACommand := by decide
theorem test_word_host_rd : decode (.hostRead 0b1000#4) = .ok (.hostRd 8#4) := by decide
theorem test_word_bitdec : decode (.bitdec 0b00001000#8) = .ok (.bitdec 8#8) := by decide
theorem test_word_pack : decode (.pack 0b1001111#7) = .ok (.pack 39#6 true) := by decide
theorem test_word_chksum :
    decode (.chksum 0b0010001100000000000110010000000000111100#40) = .ok (.chksum 35#8 0#8 25#8 0#8 60#8) := by decide

theorem test_table_word_seq : decodeTableWord 6 0x14 = some .bithighPoll := by decide
theorem test_table_word_seq_in_a_byte : decodeTableWord 8 0x14 = some .bithighPoll := by decide
theorem test_table_word_cmd_start : decodeTableWord 8 0x01 = some .cmdStart := by decide
theorem test_table_word_host_rd : decodeTableWord 4 0x8 = some (.hostRd 8#4) := by decide
theorem test_table_word_pack : decodeTableWord 7 0x4F = some (.pack 39#6 true) := by decide
theorem test_table_word_chksum : decodeTableWord 40 0x230019003C = some (.chksum 35#8 0#8 25#8 0#8 60#8) := by decide
theorem test_placed_word_runs :
    see State.seq (step (State.reset.withFetchWord 6 0x08)) = some 0x09#6 := by decide
theorem test_placed_chksum_runs :
    see State.answer (step (State.reset.withFetchWord 40 0x230019003C)) = some (.bit true) := by decide

/-! ### One step each, from spec/95_test_vectors.md and the examples of the rules -/

/-- R82: `STATUS = 0x00`. -/
theorem test_idle_wait : see (fun t => (t.seq, memRead t 0x1#4)) (exec .idleWait State.reset) = some (0x00#6, 0x00#8) := by
  decide
/-- R91's example. -/
theorem test_start_drive :
    see (fun t => (t.dir, t.lvl, t.dlyPending, t.dlyMs, t.seq)) (exec .startDrive (st 1#4 0#2 .high 9)) =
      some (.output, .low, true, 20#8, 0x05#6) := by decide
/-- R92's example, pending. -/
theorem test_start_hold_waits :
    see State.seq (exec .startHold { st 1#4 1#2 .high 0 with dlyPending := true }) = some 0x05#6 := by decide
/-- R92's example, done. -/
theorem test_start_hold_done : see State.seq (exec .startHold (st 1#4 1#2 .high 0)) = some 0x08#6 := by decide
/-- R93's example. -/
theorem test_release_high :
    see (fun t => (t.dir, t.lvl, t.sub)) (exec .releaseHigh { st 2#4 0#2 .low 0 with dir := .output, lvl := .low }) =
      some (.output, .high, 1#2) := by decide
/-- R94's example. -/
theorem test_release_float :
    see (fun t => (t.dir, t.lvl, t.sub)) (exec .releaseFloat { st 2#4 1#2 .low 0 with dir := .output }) =
      some (.input, .high, 2#2) := by decide
/-- V-POLL-2. -/
theorem test_release_poll_hit :
    see (fun t => (t.seq, t.ticks)) (exec .releasePoll (st 2#4 2#2 .low 99)) = some (0x0C#6, 0) := by decide
/-- V-POLL-3. -/
theorem test_release_poll_never_times_out :
    see (fun t => (t.seq, t.ticks)) (exec .releasePoll (st 2#4 2#2 .high 255)) = some (0x0A#6, 255) := by decide
/-- V-POLL-5. -/
theorem test_ackhigh_poll_boundary :
    see (fun t => (t.seq, t.ticks)) (exec .ackhighPoll (st 3#4 0#2 .low 22)) = some (0x0C#6, 22) := by decide
/-- V-POLL-6. -/
theorem test_ackhigh_poll_timeout :
    see (fun t => (t.seq, memRead t 0x1#4, t.ticks)) (exec .ackhighPoll (st 3#4 0#2 .low 23)) =
      some (0x20#6, 0x06#8, 23) := by decide
/-- V-POLL-12. -/
theorem test_acklow_poll_timeout :
    see (fun t => (t.seq, memRead t 0x1#4)) (exec .acklowPoll (st 4#4 0#2 .high 23)) = some (0x20#6, 0x16#8) := by decide
/-- V-POLL-13. -/
theorem test_acklow_poll_hit :
    see (fun t => (t.seq, t.n, t.ticks)) (exec .acklowPoll (st 4#4 0#2 .low 200)) = some (0x14#6, 0#6, 0) := by decide
/-- V-POLL-15. -/
theorem test_bithigh_poll_timeout :
    see (fun t => (t.seq, memRead t 0x1#4, t.frame, t.n)) (exec .bithighPoll (stBit 5#4 12#6 frame35 .low 14)) =
      some (0x20#6, 0x26#8, Frame.zero, 0#6) := by decide
/-- V-POLL-16. -/
theorem test_bithigh_poll_line_first :
    see (fun t => (t.seq, t.ticks)) (exec .bithighPoll (stBit 5#4 12#6 frame35 .high 200)) = some (0x18#6, 0) := by
  decide
/-- V-POLL-19. -/
theorem test_pulse_poll_stores :
    see (fun t => (t.frame.humidityInt, t.n, t.seq, t.ticks)) (exec .pulsePoll (stBit 6#4 2#6 Frame.zero .low 17)) =
      some (0x20#8, 3#6, 0x14#6, 0) := by decide
/-- V-POLL-20. -/
theorem test_pulse_poll_last_bit :
    see (fun t => (t.frame, t.n, t.seq, memRead t 0x1#4, t.ticks)) (exec .pulsePoll (stBit 6#4 39#6 frame35 .low 6)) =
      some (frame35, 39#6, 0x1C#6, 0x0A#8, 6) := by decide
/-- R117's example. -/
theorem test_complete_hold :
    see (fun t => memRead t 0x1#4)
      (exec .completeHold { stBit 7#4 39#6 frame35 .high 0 with outTag := .frame }) = some 0x0A#8 := by decide
/-- R118's example. -/
theorem test_failed_hold :
    see (fun t => memRead t 0x1#4)
      (exec .failedHold { st 8#4 0#2 .high 0 with outTag := .timeout, outStage := .ackLow }) = some 0x16#8 := by decide
/-- V-CMD-8. -/
theorem test_cmd_start_from_complete :
    see (fun t => (t.seq, memRead t 0x1#4, t.frame, t.n))
      (exec .cmdStart { stBit 7#4 39#6 frame35 .high 0 with outTag := .frame }) =
      some (0x04#6, 0x01#8, Frame.zero, 0#6) := by decide
/-- V-CMD-7. -/
theorem test_cmd_start_busy :
    see (fun t => (t.seq, t.n, t.frame)) (exec .cmdStart (stBit 6#4 17#6 frame35 .high 0)) =
      some (0x18#6, 17#6, frame35) := by decide
/-- V-CMD-11. -/
theorem test_host_rd_bitcnt : see State.answer (exec (.hostRd 0x3#4) (stBit 5#4 12#6 frame35 .low 0)) =
    some (.byte 0x0C#8) := by decide
/-- V-CMD-11. -/
theorem test_host_rd_seq : see State.answer (exec (.hostRd 0x2#4) (stBit 5#4 12#6 frame35 .low 0)) =
    some (.byte 0x14#8) := by decide
/-- V-BIT-4. -/
theorem test_bitdec_boundary : see State.answer (exec (.bitdec 7#8) State.reset) = some (.bit false) := by decide
/-- V-BIT-5. -/
theorem test_bitdec_above : see State.answer (exec (.bitdec 8#8) State.reset) = some (.bit true) := by decide
/-- V-PACK-8. -/
theorem test_pack_last : see State.answer (exec (.pack 39#6 true) State.reset) =
    some (.frame { Frame.zero with checksum := 0x01#8 }) := by decide
/-- V-PACK-11. -/
theorem test_pack_assigns : see State.answer
    (exec (.pack 3#6 false) (stBit 6#4 3#6 (Frame.mk 0xFF#8 0xFF#8 0xFF#8 0xFF#8 0xFF#8) .low 0)) =
    some (.frame (Frame.mk 0xEF#8 0xFF#8 0xFF#8 0xFF#8 0xFF#8)) := by decide
/-- V-CHK-4. -/
theorem test_chksum_wraps : see State.answer (exec (.chksum 255#8 255#8 255#8 255#8 252#8) State.reset) =
    some (.bit true) := by decide
/-- V-CHK-5. -/
theorem test_chksum_bad : see State.answer (exec (.chksum 255#8 255#8 255#8 255#8 254#8) State.reset) =
    some (.bit false) := by decide

/-! ### The other agents -/

/-- R139: after 255 comes 0 for the default width, and 256 for nine bits. -/
theorem test_tick_wraps : see State.ticks (step { st 6#4 0#2 .high 255 with moves := [.tick] }) = some 0 ∧
    see State.ticks (step { st 6#4 0#2 .high 255 with moves := [.tick], params := { Config.defaults with tickW := 9 } }) =
      some 256 := by decide
/-- V-CMD-15. -/
theorem test_rst_in_start :
    see (fun t => (t.seq, t.dir, t.lvl, t.dlyPending))
      (step { st 1#4 1#2 .low 0 with dir := .output, lvl := .low, dlyPending := true, moves := [.rst] }) =
      some (0x00#6, .input, .high, false) := by decide
/-- R142. -/
theorem test_delay_done :
    see State.dlyPending (step { st 1#4 1#2 .low 0 with dlyPending := true, moves := [.delayDone] }) = some false := by
  decide
/-- V-CMD-13. -/
theorem test_host_write_elsewhere :
    see State.seq (step { State.reset with moves := [.hostWrite 0x2#4 0x01#8] }) = some 0x00#6 := by decide

/-! ### Witnesses: states and operands that meet the hypotheses of an obligation, at the boundaries of each clause -/

theorem witness_reserved_words : ∀ w ∈ [0x01#6, 0x06#6, 0x0B#6, 0x1F#6, 0x21#6, 0x24#6, 0x3F#6], w ∉
    [0x00#6, 0x04#6, 0x05#6, 0x08#6, 0x09#6, 0x0A#6, 0x0C#6, 0x10#6, 0x14#6, 0x18#6, 0x1C#6, 0x20#6] := by decide
theorem witness_host_words : (0x01#8 : Byte).getLsbD 0 = true ∧ (0xFF#8 : Byte).getLsbD 0 = true ∧
    (0xFE#8 : Byte).getLsbD 0 = false ∧ (0x1#4 : BitVec 4) ≠ 0x0#4 := by decide
theorem witness_decode_of_encode : (Instr.pack 39#6 true).wellFormed = true := by decide
theorem witness_encode_of_decode : decode (.hostWrite 0x0#4 0xFF#8) = .ok .cmdStart := by decide
theorem witness_rst_step : { st 15#4 3#2 .low 0 with moves := [.rst, .core] }.moves = .rst :: [.core] := rfl
theorem witness_start_hold : (st 1#4 1#2 .low 0).dlyPending = false ∧
    { st 1#4 1#2 .low 0 with dlyPending := true }.dlyPending = true := ⟨rfl, rfl⟩
theorem witness_release_poll : (st 2#4 2#2 .low 0).line = .low ∧ (st 2#4 2#2 .high 255).line = .high := ⟨rfl, rfl⟩
theorem witness_ack_polls :
    (∀ s ∈ [st 3#4 0#2 .low 23, st 4#4 0#2 .high 23], s.params.tAck < s.ticks) ∧
    (∀ s ∈ [st 3#4 0#2 .low 22, st 4#4 0#2 .high 22], s.ticks ≤ s.params.tAck) ∧
    (st 3#4 0#2 .low 23).line = .low ∧ (st 4#4 0#2 .high 23).line = .high := by
  refine ⟨?_, ?_, rfl, rfl⟩ <;> simp [st, State.reset, Config.defaults]
theorem witness_bithigh_poll :
    (st 5#4 0#2 .low 14).line = .low ∧
    (st 5#4 0#2 .low 14).params.tBitWait < (st 5#4 0#2 .low 14).ticks ∧
    (st 5#4 0#2 .low 13).ticks ≤ (st 5#4 0#2 .low 13).params.tBitWait ∧
    (st 5#4 0#2 .high 14).line = .high := by decide
theorem witness_pulse_poll :
    (stBit 6#4 38#6 Frame.zero .low 8).line = .low ∧ (stBit 6#4 38#6 Frame.zero .low 8).n.toNat < 39 ∧
    (stBit 6#4 39#6 Frame.zero .low 8).n.toNat = 39 ∧ (stBit 6#4 39#6 Frame.zero .high 8).line = .high := by decide
theorem witness_cmd_start :
    (∀ s ∈ [st 0#4 0#2 .low 0, st 7#4 0#2 .low 0, st 8#4 0#2 .low 0],
      s.phase = 0#4 ∨ s.phase = 7#4 ∨ s.phase = 8#4) ∧
    (∀ s ∈ [st 1#4 0#2 .low 0, st 6#4 0#2 .low 0, st 9#4 0#2 .low 0],
      s.phase ≠ 0#4 ∧ s.phase ≠ 7#4 ∧ s.phase ≠ 8#4) := by simp [st, State.reset]
theorem witness_bitdec : (7#8).toNat ≤ State.reset.params.tBit ∧
    State.reset.params.tBit < (8#8).toNat := by decide
theorem witness_pack : (0#6).toNat < 40 ∧ (39#6).toNat < 40 ∧ 40 ≤ (40#6).toNat ∧ 40 ≤ (63#6).toNat := by decide
theorem witness_step_core :
    (stBit 5#4 39#6 Frame.zero .low 0).n.toNat < 40 ∧ PositionLegal (stBit 5#4 39#6 Frame.zero .low 0) ∧
    decode (.seq (stBit 5#4 39#6 Frame.zero .low 0).seq) = .ok .bithighPoll ∧
    { stBit 5#4 39#6 Frame.zero .low 0 with moves := [.core] }.moves = .core :: [] := by decide
theorem witness_step_words :
    PositionLegal State.reset ∧ State.reset.n.toNat < 40 ∧ decode (.hostWrite 0x0#4 0x01#8) = .ok .cmdStart ∧
    decode (.hostRead 0xF#4) = .ok (.hostRd 0xF#4) ∧ decode (.bitdec 0xFF#8) = .ok (.bitdec 0xFF#8) ∧
    decode (.pack 0x4F#7) = .ok (.pack 39#6 true) ∧
    decode (.chksum 0x3C#40) = .ok (.chksum 0#8 0#8 0#8 0#8 0x3C#8) := by decide
theorem witness_environment :
    PositionLegal { st 6#4 0#2 .high 255 with moves := [.tick, .line .low, .delayDone, .hostWrite 0x1#4 0x01#8] } ∧
    { st 6#4 0#2 .high 255 with moves := [.tick] }.n.toNat < 40 ∧ (0xFE#8 : Byte).getLsbD 0 = false := by decide
theorem witness_reserved_states :
    ¬ PositionLegal (st 0#4 1#2 .low 0) ∧ ¬ PositionLegal (st 9#4 0#2 .low 0) ∧
    PositionLegal (stBit 6#4 40#6 Frame.zero .low 0) ∧ 40 ≤ (stBit 6#4 40#6 Frame.zero .low 0).n.toNat ∧
    Move.core ≠ .rst := by decide

/-- A state with the invariants from the items of R35. -/
theorem inv_of {s : State} (h1 : PositionLegal s) (h2 : CountLegal s) (h3 : TagLegal s) (h4 : StageLegal s)
    (h5 : FrameLegal s) (h6 : DirLegal s) (h7 : LvlLegal s) (h8 : DelayLegal s) : Inv s := ⟨h1, h2, h3, h4, h5, h6, h7, h8⟩

/-- A legal state in the bit stream, with a step. -/
theorem witness_invariant_step :
    Inv { stBit 5#4 39#6 (Frame.mk 35#8 0#8 25#8 0#8 60#8) .low 14 with moves := [.core] } ∧
    ∃ t, step { stBit 5#4 39#6 (Frame.mk 35#8 0#8 25#8 0#8 60#8) .low 14 with moves := [.core] } = .next t ∧
      t.isAt 8#4 0#2 := by
  refine ⟨?_, _, rfl, by decide⟩
  apply inv_of <;> decide
/-- A legal state while the line is driven, with a core step. -/
theorem witness_driven :
    Inv { st 2#4 0#2 .low 7 with dir := .output, lvl := .low } ∧
    { st 2#4 0#2 .low 7 with dir := .output, lvl := .low }.dir = .output ∧
    ∃ t, takeStep .core { st 2#4 0#2 .low 7 with dir := .output, lvl := .low } = .next t ∧ t.lvl = .high := by
  refine ⟨?_, rfl, _, rfl, by decide⟩
  apply inv_of <;> decide
/-- Complete, then a tick and a core step. -/
theorem witness_finished :
    Inv { stBit 7#4 39#6 frame35 .high 0 with outTag := .frame } ∧
    done { stBit 7#4 39#6 frame35 .high 0 with outTag := .frame } = true ∧
    (∃ t, takeStep .tick { stBit 7#4 39#6 frame35 .high 0 with outTag := .frame } = .next t ∧ t.ticks = 1) ∧
    ¬ IsStartCommand .tick := by
  refine ⟨?_, by decide, ⟨_, rfl, by decide⟩, by rintro ⟨_, h, _⟩; cases h⟩
  apply inv_of <;> decide
theorem witness_failed :
    Inv { st 8#4 0#2 .high 0 with outTag := .timeout, outStage := .bitHigh } ∧
    done { st 8#4 0#2 .high 0 with outTag := .timeout, outStage := .bitHigh } = true := by
  refine ⟨?_, by decide⟩
  apply inv_of <;> decide
theorem witness_pack_evaluation : ∃ w : BitVec 7,
    nextMove { State.reset with moves := [.evalPack w] } = .evalPack w ∧ 40 ≤ (w.extractLsb' 1 6).toNat :=
  ⟨0x50#7, by decide⟩
theorem witness_reachable : Reachable { State.reset with ticks := 200, line := .high } :=
  ⟨0, [], Config.defaults, 200, .high, 0#8, by decide, by decide, rfl⟩
theorem witness_led : LedFollowsPhase State.reset ∧
    ∃ t, step { State.reset with moves := [.hostWrite 0x0#4 0x01#8] } = .next t ∧ t.phase = 1#4 := ⟨rfl, _, rfl, rfl⟩
theorem witness_params : ∃ t, step { State.reset with moves := [.tick] } = .next t := ⟨_, rfl⟩
theorem witness_position :
    (∃ t, takeStep .core (st 4#4 0#2 .high 23) = .next t ∧ (t.phase, t.sub) = (8#4, 0#2)) ∧
    (∃ t, takeStep .core (st 4#4 0#2 .low 23) = .next t ∧ (t.phase, t.sub) = (5#4, 0#2)) ∧
    (∃ t, takeStep (.hostWrite 0x0#4 0x01#8) (st 8#4 0#2 .low 0) = .next t ∧ (t.phase, t.sub) = (1#4, 0#2)) ∧
    (∃ t, takeStep .tick (st 4#4 0#2 .high 23) = .next t ∧ (t.phase, t.sub) = (4#4, 0#2)) ∧
    (∃ t, takeStep .rst (st 4#4 0#2 .high 23) = .next t ∧ t.isAt 0#4 0#2) :=
  ⟨⟨_, rfl, by decide⟩, ⟨_, rfl, by decide⟩, ⟨_, rfl, by decide⟩, ⟨_, rfl, by decide⟩, ⟨_, rfl, by decide⟩⟩
theorem witness_frame_writers :
    (∃ t, exec .pulsePoll (stBit 6#4 39#6 Frame.zero .low 8) = .next t ∧ t.frame.checksum = 0x01#8) ∧
    (∃ t, exec .bithighPoll (stBit 5#4 39#6 frame35 .low 14) = .next t ∧ t.frame = Frame.zero) ∧
    (∃ t, exec .cmdStart (stBit 7#4 39#6 frame35 .low 14) = .next t ∧ t.frame = Frame.zero) ∧
    (∃ t, exec .completeHold (stBit 7#4 39#6 frame35 .low 14) = .next t ∧ t.frame = frame35) :=
  ⟨⟨_, rfl, by decide⟩, ⟨_, rfl, by decide⟩, ⟨_, rfl, by decide⟩, ⟨_, rfl, by decide⟩⟩
theorem witness_pins : ∃ t, exec .releaseFloat { st 2#4 1#2 .low 0 with dir := .output } = .next t ∧
    t.dir = .input ∧ t.lvl = .high := ⟨_, rfl, rfl, rfl⟩
/-- One timeout of each stage from a state without one. -/
theorem witness_timeouts :
    (∃ t, exec .ackhighPoll (st 3#4 0#2 .low 23) = .next t ∧ t.outTag = .timeout ∧ t.phase = 8#4) ∧
    (∃ t, exec .acklowPoll (st 4#4 0#2 .high 23) = .next t ∧ t.outTag = .timeout ∧ t.outStage = .ackLow) ∧
    (∃ t, exec .bithighPoll (st 5#4 0#2 .low 14) = .next t ∧ t.outTag = .timeout ∧ t.outStage = .bitHigh) ∧
    (st 3#4 0#2 .low 23).outTag ≠ .timeout ∧ (st 3#4 0#2 .low 23).phase ≠ 8#4 :=
  ⟨⟨_, rfl, by decide⟩, ⟨_, rfl, by decide⟩, ⟨_, rfl, by decide⟩, by decide⟩
theorem witness_window : (∃ t, exec (.hostRd 0x4#4) (stBit 5#4 8#6 frame35 .low 0) = .next t ∧ memRead t 0x4#4 = 35#8) ∧
    (∃ t, exec .releaseHigh (st 2#4 0#2 .low 0) = .next t ∧ memRead t 0x1#4 = 0x01#8) ∧ (0x1#4 : BitVec 4) ≠ 0x2#4 :=
  ⟨⟨_, rfl, by decide⟩, ⟨_, rfl, by decide⟩, by decide⟩
theorem witness_untimed :
    (∃ t, exec .releasePoll (st 2#4 2#2 .low 99) = .next t ∧ t.ticks = 0) ∧
    (∃ t, exec .pulsePoll (st 6#4 0#2 .high 99) = .next t ∧ t.ticks = 99) ∧ (st 6#4 0#2 .high 99).line = .high :=
  ⟨⟨_, rfl, by decide⟩, ⟨_, rfl, by decide⟩, rfl⟩
theorem witness_carry_over : ∃ s u : State,
    busy s = false ∧ busy u = false ∧ s.frame ≠ u.frame ∧ s.outTag ≠ u.outTag ∧
    s = { u with phase := s.phase, sub := s.sub, n := s.n, frame := s.frame, outTag := s.outTag, outStage := s.outStage,
                 led := s.led } :=
  ⟨{ stBit 7#4 39#6 frame35 .high 0 with outTag := .frame }, { st 8#4 0#2 .high 0 with outTag := .timeout },
    by decide, by decide, by decide, by decide, rfl⟩
theorem witness_busy :
    busy (stBit 6#4 17#6 frame35 .high 0) = true ∧
    (∃ t, takeStep (.hostWrite 0x0#4 0x01#8) (stBit 6#4 17#6 frame35 .high 0) = .next t ∧ t.n = 17#6) ∧
    (∃ t, takeStep (.hostRead 0x3#4) (stBit 6#4 17#6 frame35 .high 0) = .next t ∧ t.answer = .byte 17#8) :=
  ⟨by decide, ⟨_, rfl, by decide⟩, ⟨_, rfl, by decide⟩⟩
theorem witness_tmr_clr :
    (∃ t, takeStep .core (stBit 6#4 38#6 Frame.zero .low 8) = .next t ∧
      (outPorts 0x0#4 .core (stBit 6#4 38#6 Frame.zero .low 8)).tmrClr = true) ∧
    (∃ t, takeStep .core (stBit 6#4 39#6 Frame.zero .low 8) = .next t ∧
      (outPorts 0x0#4 .core (stBit 6#4 39#6 Frame.zero .low 8)).tmrClr = false) :=
  ⟨⟨_, rfl, by decide⟩, ⟨_, rfl, by decide⟩⟩
theorem witness_stream_positions : (0 : Nat) < 40 ∧ (39 : Nat) < 40 ∧ ((0 : Nat) ≠ 39) := by decide
/-- The last bit of a frame, its line held high for 264 ticks. -/
def longPulse : State :=
  { stBit 6#4 39#6 Frame.zero .high 0 with
    moves := List.replicate 264 Move.tick ++ Move.line .low :: Move.core :: [Move.rst] }

theorem witness_pulse_width :
    longPulse.isAt 6#4 0#2 ∧ longPulse.n.toNat < 40 ∧ longPulse.ticks = 0 ∧
    longPulse.moves = List.replicate 264 Move.tick ++ Move.line .low :: Move.core :: [Move.rst] :=
  ⟨by decide, by decide, rfl, rfl⟩

/-- Gaps in which every agent but the core moves; the second dips low and back before the next core step. -/
def idleGaps : List Gap :=
  [[.tick, .hostRead 0x1#4], [.line .low, .tick, .line .high], [.delayDone, .hostWrite 0x0#4 0x01#8], []]

/-- The two unbounded waits. -/
def hangingRelease : State := { st 2#4 2#2 .high 255 with moves := coreSteps idleGaps ++ [.tick] ++ [.rst] }
def hangingPulse : State := { stBit 6#4 39#6 frame35 .high 255 with moves := coreSteps idleGaps ++ [.tick] ++ [.rst] }

theorem witness_hang :
    hangingRelease.isAt 2#4 2#2 ∧ hangingPulse.isAt 6#4 0#2 ∧
    (∀ s ∈ [hangingRelease, hangingPulse], s.n.toNat < 40 ∧ (∀ l ∈ linesAt s.line idleGaps, l = .high) ∧
      s.moves = coreSteps idleGaps ++ [.tick] ++ [.rst]) ∧
    (∀ g ∈ idleGaps, g.ok) ∧ Gap.ok [.tick] := by
  refine ⟨by decide, by decide, ?_, by decide, by decide⟩
  intro s hs
  simp only [List.mem_cons, List.not_mem_nil, or_false] at hs
  rcases hs with rfl | rfl <;> exact ⟨by decide, by decide, rfl⟩

/-- A gap of so many ticks. -/
def gapOf (d : Nat) : Gap := List.replicate d .tick

/-- The three budgeted waits, each polled once at its budget and once at the largest gap, a host read between. -/
def ackGaps : List Gap := [gapOf 22, .hostRead 0x1#4 :: gapOf 233]
def lateGaps : List Gap := [[.line .low, .line .high], [.tick]]
def bitGaps : List Gap := [[], gapOf 242]
def waitAckHigh : State := { st 3#4 0#2 .low 0 with moves := coreSteps ackGaps ++ [.rst] }
def waitAckLow : State := { st 4#4 0#2 .high 22 with moves := coreSteps lateGaps ++ [.rst] }
def waitBitHigh : State := { stBit 5#4 39#6 frame35 .low 13 with moves := coreSteps bitGaps ++ [.rst] }

theorem witness_wait_ack_high :
    BudgetedWait waitAckHigh .high 22 .ackHigh ∧ waitAckHigh.n.toNat < 40 ∧ (∀ g ∈ ackGaps, g.ok) ∧
    (∀ l ∈ linesAt waitAckHigh.line ackGaps, l ≠ .high) ∧ waitAckHigh.ticks ≤ 22 ∧
    (∀ g ∈ ackGaps, g.ticks ≤ waitAckHigh.params.tickMax - 22) ∧ 22 < waitAckHigh.ticks + gapTicks ackGaps ∧
    waitAckHigh.moves = coreSteps ackGaps ++ [.rst] :=
  ⟨⟨rfl, .inl ⟨rfl, rfl, rfl, rfl⟩⟩, by decide +kernel, by decide +kernel, by decide +kernel, by decide +kernel, by decide +kernel, by decide +kernel, rfl⟩
theorem witness_wait_ack_low :
    BudgetedWait waitAckLow .low 22 .ackLow ∧ waitAckLow.n.toNat < 40 ∧ (∀ g ∈ lateGaps, g.ok) ∧
    (∀ l ∈ linesAt waitAckLow.line lateGaps, l ≠ .low) ∧ waitAckLow.ticks ≤ 22 ∧
    (∀ g ∈ lateGaps, g.ticks ≤ waitAckLow.params.tickMax - 22) ∧ 22 < waitAckLow.ticks + gapTicks lateGaps ∧
    waitAckLow.moves = coreSteps lateGaps ++ [.rst] :=
  ⟨⟨rfl, .inr (.inl ⟨rfl, rfl, rfl, rfl⟩)⟩, by decide +kernel, by decide +kernel, by decide +kernel, by decide +kernel, by decide +kernel, by decide +kernel, rfl⟩
theorem witness_wait_bit_high :
    BudgetedWait waitBitHigh .high 13 .bitHigh ∧ waitBitHigh.n.toNat < 40 ∧ (∀ g ∈ bitGaps, g.ok) ∧
    (∀ l ∈ linesAt waitBitHigh.line bitGaps, l ≠ .high) ∧ waitBitHigh.ticks ≤ 13 ∧
    (∀ g ∈ bitGaps, g.ticks ≤ waitBitHigh.params.tickMax - 13) ∧ 13 < waitBitHigh.ticks + gapTicks bitGaps ∧
    waitBitHigh.moves = coreSteps bitGaps ++ [.rst] :=
  ⟨⟨rfl, .inr (.inr ⟨rfl, rfl, rfl, rfl⟩)⟩, by decide +kernel, by decide +kernel, by decide +kernel, by decide +kernel, by decide +kernel, by decide +kernel, rfl⟩

/-- A bit whose wait takes its whole budget, that rises after a further tick and a host read, and whose pulse is one
tick above the threshold. -/
def longestBit : Pulse :=
  { lows := [[.line .low], gapOf 13], rise := [.tick, .hostRead 0x3#4, .line .high], highs := [gapOf 3],
    fall := gapOf 5 ++ [.line .low] }

/-- Forty of them. -/
def fortyBits : List Pulse := List.replicate 40 longestBit

theorem witness_forty_pulses : ∃ s : State,
    s.isAt 5#4 0#2 ∧ s.n = 0#6 ∧ s.ticks = 0 ∧ fortyBits.length = 40 ∧ (∀ g ∈ streamGaps fortyBits, g.ok) ∧
    (∀ p ∈ fortyBits, WithinBudget s.params s.params.tBitWait p.lows) ∧
    linesAt s.line (streamGaps fortyBits) = streamLevels fortyBits ∧ s.moves = coreSteps (streamGaps fortyBits) ++ [.rst] :=
  ⟨{ st 5#4 0#2 .low 0 with moves := coreSteps (streamGaps fortyBits) ++ [.rst] }, ⟨rfl, rfl⟩, rfl, rfl, rfl, by decide +kernel,
    by decide +kernel, by decide +kernel, rfl⟩

/-- A handshake with a wait of each kind. -/
def slowHandshake : Handshake :=
  { drive := [.delayDone], holds := [[.tick]], held := [.delayDone, .hostWrite 0x0#4 0x01#8], high := [], float := [.line .high],
    idles := [gapOf 3], pull := [.line .low], lows := [gapOf 22], rise := [.tick, .line .high], highs := [gapOf 20],
    fall := [.line .low] }

theorem witness_attempt : ∃ s : State,
    Inv s ∧ busy s = false ∧ (0xFF#8 : Byte).getLsbD 0 = true ∧
    (∀ g ∈ slowHandshake.opening ++ (slowHandshake.waits ++ streamGaps fortyBits), g.ok) ∧
    (∀ g ∈ slowHandshake.holds, .delayDone ∉ g) ∧ .delayDone ∈ slowHandshake.held ∧
    WithinBudget s.params s.params.tAck slowHandshake.lows ∧ WithinBudget s.params s.params.tAck slowHandshake.highs ∧
    fortyBits.length = 40 ∧ (∀ p ∈ fortyBits, WithinBudget s.params s.params.tBitWait p.lows) ∧
    linesAt (Gap.lineAfter s.line slowHandshake.opening.flatten) (slowHandshake.waits ++ streamGaps fortyBits) =
      slowHandshake.levels ++ streamLevels fortyBits ∧
    s.moves = .hostWrite 0x0#4 0xFF#8 ::
      coreSteps (slowHandshake.opening ++ (slowHandshake.waits ++ streamGaps fortyBits)) ++ [.rst] := by
  refine ⟨{ st 8#4 0#2 .low 5 with
    outTag := .timeout, outStage := .ackLow
    moves := .hostWrite 0x0#4 0xFF#8 ::
      coreSteps (slowHandshake.opening ++ (slowHandshake.waits ++ streamGaps fortyBits)) ++ [.rst] },
    ?_, by decide +kernel, by decide +kernel, by decide +kernel, by decide +kernel, by decide +kernel, by decide +kernel, by decide +kernel, rfl, by decide +kernel, by decide +kernel, rfl⟩
  apply inv_of <;> decide

/-- A budgeted wait with legal parameters, and one with the budget at the ceiling. -/
def ceilingWait : State := { waitAckHigh with params := { Config.defaults with tAck := 255 }, ticks := 255 }

theorem witness_ceiling :
    BudgetedWait waitAckHigh .high 22 .ackHigh ∧ waitAckHigh.line ≠ .high ∧ waitAckHigh.params.Legal ∧
    BudgetedWait ceilingWait .high 255 .ackHigh ∧ ceilingWait.line ≠ .high ∧ ceilingWait.n.toNat < 40 ∧
    ceilingWait.params.tickMax ≤ 255 ∧ TicksInRange ceilingWait ∧ ¬ ceilingWait.params.Legal :=
  ⟨⟨rfl, .inl ⟨rfl, rfl, rfl, rfl⟩⟩, by decide, by decide, ⟨rfl, .inl ⟨rfl, rfl, rfl, rfl⟩⟩, by decide, by decide,
    by decide, by decide, by decide⟩
theorem witness_range : TicksInRange { st 0#4 0#2 .low 255 with moves := [.tick] } ∧
    ∃ t, step { st 0#4 0#2 .low 255 with moves := [.tick] } = .next t ∧ t.ticks = 0 := ⟨by decide, _, rfl, by decide⟩
/-- R144: the two strobes are down in a tick and in a reset taken from states whose op would raise them. -/
theorem witness_strobes :
    (∃ t, takeStep .core (st 1#4 0#2 .low 0) = .next t ∧ (outPorts 0x0#4 .core (st 1#4 0#2 .low 0)).dlyReq = true) ∧
    (∃ t, takeStep .tick (st 1#4 0#2 .low 0) = .next t ∧ (outPorts 0x0#4 .tick (st 1#4 0#2 .low 0)).dlyReq = false) ∧
    (∃ t, takeStep .rst (st 2#4 2#2 .low 0) = .next t ∧ (outPorts 0x0#4 .rst (st 2#4 2#2 .low 0)).tmrClr = false) :=
  ⟨⟨_, rfl, by decide⟩, ⟨_, rfl, by decide⟩, ⟨_, rfl, by decide⟩⟩
/-- R144: a write's address and data on the host's ports. -/
theorem test_in_ports :
    (inPorts 0x5#4 0x00#8 (.hostWrite 0x0#4 0x01#8) State.reset).hWe = true ∧
    (inPorts 0x5#4 0x00#8 (.hostWrite 0x0#4 0x01#8) State.reset).hWdata = 0x01#8 ∧
    (inPorts 0x5#4 0x00#8 (.hostWrite 0x0#4 0x01#8) State.reset).hAddr = 0x0#4 ∧
    (inPorts 0x5#4 0x00#8 .core State.reset).hWe = false ∧ (inPorts 0x5#4 0x00#8 .core State.reset).dlyDone = true := by
  decide

end Sys2Proof.Tests
end

/-! ### The parameters and the budgets below the wrap-around ceiling (spec/00_scope.md R7 to R9)

No step writes a parameter, so every reachable state is configured as reset was; and what a poll of a budgeted wait does
while the line is not at the awaited level, which decides whether a budget can be exceeded at all. -/

namespace Sys2Proof.Machine

/-! ### No step writes a parameter -/

theorem exec_params {i : Instr} {s t : State} (h : exec i s = .next t) : t.params = s.params := by
  cases i with
  | startHold => rcases execStartHold_cases h with ⟨-, rfl⟩ | ⟨-, rfl⟩ <;> simp
  | releasePoll => rcases execReleasePoll_cases h with ⟨-, rfl⟩ | ⟨-, rfl⟩ <;> simp
  | ackhighPoll => rcases execAckhighPoll_cases h with ⟨-, rfl⟩ | ⟨-, -, rfl⟩ | ⟨-, -, rfl⟩ <;> simp
  | acklowPoll => rcases execAcklowPoll_cases h with ⟨-, rfl⟩ | ⟨-, -, rfl⟩ | ⟨-, -, rfl⟩ <;> simp
  | bithighPoll => rcases execBithighPoll_cases h with ⟨-, rfl⟩ | ⟨-, -, rfl⟩ | ⟨-, -, rfl⟩ <;> simp
  | pulsePoll => rcases execPulsePoll_cases h with ⟨-, rfl⟩ | ⟨-, -, rfl⟩ | ⟨-, -, rfl⟩ <;> simp
  | cmdStart => rcases execCmdStart_cases h with ⟨-, rfl⟩ | ⟨-, rfl⟩ <;> simp
  | pack n b =>
    obtain ⟨-, rfl⟩ := execPack_cases h
    simp
  | idleWait | startDrive | releaseHigh | releaseFloat | completeHold | failedHold | hostRd _ | bitdec _
  | chksum _ _ _ _ _ =>
    cases h
    rfl

theorem takeStep_params {m : Move} {s t : State} (h : takeStep m s = .next t) : t.params = s.params := by
  rcases takeStep_next_cases h with ⟨-, rfl⟩ | ⟨-, rfl⟩ | ⟨v, -, rfl⟩ | ⟨-, rfl⟩ | ⟨a, v, -, -, rfl⟩ |
    ⟨c, i, -, -, he, -⟩
  · simp
  · simp
  · simp
  · simp
  · rfl
  · exact exec_params he

theorem step_params {s t : State} (h : step s = .next t) : t.params = s.params :=
  (takeStep_params h).trans (takeMove_params s)

/-! ### What every step keeps, every reachable state has -/

theorem run_invariant {P : State → Prop} (hstep : ∀ s t, P s → step s = .next t → P t) {k : Nat} {s t : State}
    (hs : P s) (h : Host.Core.run Sys2Proof.core k s = .next t) : P t := by
  induction k generalizing s with
  | zero =>
    cases h
    exact hs
  | succ k ih =>
    simp only [Host.Core.run, Sys2Proof.core] at h
    cases ho : step s with
    | next u =>
      rw [ho] at h
      exact ih (hstep s u hs ho) h
    | fault f =>
      rw [ho] at h
      cases h
    | refused r =>
      rw [ho] at h
      cases h

/-- The induction over the states a schedule leads to from reset, for every configuration `Reachable` allows. -/
theorem Reachable.of_invariant {P : State → Prop}
    (hreset : ∀ (ms : List Move) (p : Params) (e : Nat) (v : Level) (d : BitVec 8), p.Legal → e ≤ p.tickMax →
      P { State.reset with moves := ms, params := p, ticks := e, line := v, dlyMs := d })
    (hstep : ∀ s t, P s → step s = .next t → P t) {s : State} (h : Reachable s) : P s := by
  obtain ⟨k, ms, p, e, v, d, hp, he, hrun⟩ := h
  exact run_invariant hstep (hreset ms p e v d hp he) hrun

theorem Reachable.params_legal {s : State} (h : Reachable s) : s.params.Legal :=
  h.of_invariant (P := fun s => s.params.Legal) (fun _ _ _ _ _ hp _ => hp)
    (fun _ _ hs ho => (step_params ho).symm ▸ hs)

/-! ### A budgeted wait while the line is not at the awaited level -/

theorem poll_of_line_ne {awaited : Level} {budget : Nat} {s : State} (h : s.line ≠ awaited) :
    poll awaited (some budget) s = if budget < s.ticks then .timeout else .wait := by
  split
  · exact poll_timeout h ‹_›
  · exact poll_wait h (Nat.not_lt.1 ‹_›)

/-- The core step of a budgeted wait that does not find its level: past the budget it aborts with the wait's stage, within
it nothing changes (spec/41_handshake.md R96, R97; spec/42_bitstream.md R102). -/
theorem BudgetedWait.takeStep_core_of_line_ne {s : State} {awaited : Level} {budget : Nat} {g : Stage}
    (hw : BudgetedWait s awaited budget g) (hn : s.n.toNat < 40) (hl : s.line ≠ awaited) :
    takeStep .core s = .next (if budget < s.ticks then raiseTimeout g s else s) := by
  obtain ⟨hsub, ⟨hp, rfl, rfl, rfl⟩ | ⟨hp, rfl, rfl, rfl⟩ | ⟨hp, rfl, rfl, rfl⟩⟩ := hw
  · rw [takeStep_core_of_isAt (i := .ackhighPoll) ⟨hp, hsub⟩ hn rfl (by decide)]
    simp only [exec, execAckhighPoll, poll_of_line_ne hl]
    split_ifs <;> rfl
  · rw [takeStep_core_of_isAt (i := .acklowPoll) ⟨hp, hsub⟩ hn rfl (by decide)]
    simp only [exec, execAcklowPoll, poll_of_line_ne hl]
    split_ifs <;> rfl
  · rw [takeStep_core_of_isAt (i := .bithighPoll) ⟨hp, hsub⟩ hn rfl (by decide)]
    simp only [exec, execBithighPoll, poll_of_line_ne hl]
    split_ifs <;> rfl

/-- A wait does not depend on what the timer shows. -/
theorem BudgetedWait.with_ticks {s : State} {awaited : Level} {budget : Nat} {g : Stage}
    (hw : BudgetedWait s awaited budget g) (e : Nat) : BudgetedWait { s with ticks := e } awaited budget g := hw

/-- The budget is one of the thresholds R8 keeps below the ceiling. -/
theorem BudgetedWait.budget_lt_tickMax {s : State} {awaited : Level} {budget : Nat} {g : Stage}
    (hw : BudgetedWait s awaited budget g) (hp : s.params.Legal) : budget < s.params.tickMax := by
  obtain ⟨-, hBitWait, hAck⟩ := hp
  obtain ⟨-, ⟨-, -, rfl, -⟩ | ⟨-, -, rfl, -⟩ | ⟨-, -, rfl, -⟩⟩ := hw
  · exact hAck
  · exact hAck
  · exact hBitWait

/-- Under legal parameters the reading `TICK_MAX` makes the poll abort. -/
theorem BudgetedWait.takeStep_core_at_tickMax {s : State} {awaited : Level} {budget : Nat} {g : Stage}
    (hw : BudgetedWait s awaited budget g) (hn : s.n.toNat < 40) (hl : s.line ≠ awaited) (hp : s.params.Legal) :
    takeStep .core { s with ticks := s.params.tickMax } =
      .next (raiseTimeout g { s with ticks := s.params.tickMax }) := by
  rw [(hw.with_ticks s.params.tickMax).takeStep_core_of_line_ne hn hl, if_pos (hw.budget_lt_tickMax hp)]

/-- No reading in range exceeds a budget at or above the ceiling, so the poll waits. -/
theorem BudgetedWait.takeStep_core_of_tickMax_le {s : State} {awaited : Level} {budget : Nat} {g : Stage}
    (hw : BudgetedWait s awaited budget g) (hn : s.n.toNat < 40) (hl : s.line ≠ awaited)
    (hb : s.params.tickMax ≤ budget) (hr : TicksInRange s) : takeStep .core s = .next s := by
  have hle : s.ticks ≤ budget := Nat.le_trans hr hb
  rw [hw.takeStep_core_of_line_ne hn hl, if_neg (Nat.not_lt.2 hle)]

/-! ### The obligations -/

/-- Settles O29: one move changes no parameter, and taking it off the schedule does not either. -/
theorem noStepChangesTheParameters : Obligations.NoStepChangesTheParameters := by
  unfold Obligations.NoStepChangesTheParameters
  intro s t h
  exact step_params h

/-- Settles O52: the reading that aborts is `TICK_MAX` itself. -/
theorem thresholdsMustStayBelowTheCeiling : Obligations.ThresholdsMustStayBelowTheCeiling := by
  unfold Obligations.ThresholdsMustStayBelowTheCeiling
  refine ⟨fun s awaited budget g hw hn hl => ⟨fun hp => ?_, ?_⟩, by decide, fun s => Reachable.params_legal⟩
  · exact ⟨s.params.tickMax, _, Nat.le_refl _, hw.takeStep_core_at_tickMax hn hl hp, by simp, by simp, by simp⟩
  · exact hw.takeStep_core_of_tickMax_le hn hl

end Sys2Proof.Machine

/-! ### The invariants of spec/10_state.md R35 and the rules about the state's writers

What the invariants say is grouped by what a position means: nothing recorded yet (`Cleared`), a bit stream under way
(`Streaming`), the line released (`PinsReleased`). Each op is shown to lead from one of these to the next, which gives that
every step keeps the invariants. -/

namespace Sys2Proof.Machine

/-! ### Bits of the frame by stream position -/

@[simp] theorem Frame.streamBit_zero (p : Nat) : Frame.zero.streamBit p = false := by
  unfold Frame.streamBit Frame.byte Frame.zero
  split <;> exact BitVec.getLsbD_zero

/-- PACK assigns the bit at its own stream position and no other (spec/42_bitstream.md R105). -/
theorem Frame.streamBit_pack (f : Frame) {n p : Nat} (b : Bool) (hn : n < 40) :
    (pack f n b).streamBit p = if p = n then b else f.streamBit p := by
  have hbyte : byteIndex n < 5 := by unfold byteIndex; omega
  have hbit : bitPosition p < 8 := by unfold bitPosition; omega
  unfold pack Frame.streamBit
  rw [Frame.byte_setByte _ _ _ _ hbyte]
  by_cases hp : p = n
  · subst hp
    rw [if_pos rfl, if_pos rfl, setBit_getLsbD _ _ _ _ hbit, if_pos rfl]
  · rw [if_neg hp]
    split
    · have hne : bitPosition p ≠ bitPosition n := by unfold byteIndex bitPosition at *; omega
      rw [setBit_getLsbD _ _ _ _ hbit, if_neg hne, ‹byteIndex p = byteIndex n›]
    · rfl

/-! ### What the invariants say at a position -/

/-- No bit and no outcome is recorded. -/
structure Cleared (s : State) : Prop where
  n : s.n = 0#6
  frame : s.frame = Frame.zero
  outTag : s.outTag = .none
  outStage : s.outStage = .ackHigh

/-- Bits below position `n` may be recorded, later ones are zero, and there is no outcome. -/
structure Streaming (s : State) : Prop where
  n_le : s.n.toNat ≤ 39
  unwritten : ∀ p : Fin 40, s.n.toNat ≤ p.val → s.frame.streamBit p.val = false
  outTag : s.outTag = .none
  outStage : s.outStage = .ackHigh

/-- The block does not drive the line and waits for no delay. -/
structure PinsReleased (s : State) : Prop where
  dir : s.dir = .input
  lvl : s.lvl = .high
  dlyPending : s.dlyPending = false

/-- The twelve legal sequencer words, R63. -/
abbrev LegalWord (w : BitVec 6) : Prop :=
  w ∈ [0x00#6, 0x04#6, 0x05#6, 0x08#6, 0x09#6, 0x0A#6, 0x0C#6, 0x10#6, 0x14#6, 0x18#6, 0x1C#6, 0x20#6]

/-- The positions at which R35 items 6 to 8 let the line be driven or a delay be pending. -/
abbrev DrivingPosition (p : BitVec 4) (q : BitVec 2) : Prop :=
  (p = Phase.start ∧ q = 1#2) ∨ (p = Phase.release ∧ (q = 0#2 ∨ q = 1#2))

/-- The phases before the bit stream, in which R35 has nothing recorded. -/
abbrev BeforeStream (p : BitVec 4) : Prop :=
  p = Phase.idle ∨ p = Phase.start ∨ p = Phase.release ∨ p = Phase.ackhigh ∨ p = Phase.acklow

/-- R35 items 6 to 8. -/
def PinsLegal (s : State) : Prop := DirLegal s ∧ LvlLegal s ∧ DelayLegal s

theorem Stage.code_eq_zero {g : Stage} : g.code = 0#2 ↔ g = .ackHigh := by cases g <;> simp [Stage.code]

theorem Stage.code_ne_three (g : Stage) : g.code ≠ 3#2 := by cases g <;> simp [Stage.code]

theorem PinsReleased.pinsLegal {s : State} (h : PinsReleased s) (hd : ¬ DrivingPosition s.phase s.sub) :
    PinsLegal s := by
  simp only [DrivingPosition, not_or] at hd
  obtain ⟨hstart, hrelease⟩ := hd
  refine ⟨?_, ?_, ?_⟩
  · simp [DirLegal, h.dir, hstart, hrelease]
  · simp only [LvlLegal, h.lvl, hstart, false_or, reduceCtorEq, false_iff]
    exact fun hr => hrelease ⟨hr.1, .inl hr.2⟩
  · simp [DelayLegal, h.dlyPending]

theorem Inv.pinsReleased {s : State} (h : Inv s) {p : BitVec 4} {q : BitVec 2} (hat : s.isAt p q)
    (hd : ¬ DrivingPosition p q) : PinsReleased s := by
  obtain ⟨rfl, rfl⟩ := hat
  have hdir : s.dir ≠ .output := fun hs => hd (h.dir.1 hs)
  have hlvl : s.lvl ≠ .low := fun hs => hd ((h.lvl.1 hs).imp id fun hr => ⟨hr.1, .inl hr.2⟩)
  have hdly : s.dlyPending ≠ true := fun hs => hd (.inl (h.delay hs))
  refine ⟨?_, ?_, eq_false_of_ne_true hdly⟩
  · cases hs : s.dir
    · rfl
    · exact absurd hs hdir
  · cases hs : s.lvl
    · exact absurd hs hlvl
    · rfl

theorem Inv.outTag_of_busy {s : State} (h : Inv s) (hc : s.phase ≠ Phase.complete) (hf : s.phase ≠ Phase.failed) :
    s.outTag = .none := h.tag.1.2 ⟨hc, hf⟩

theorem Inv.outStage_of_no_timeout {s : State} (h : Inv s) (ht : s.outTag ≠ .timeout) : s.outStage = .ackHigh :=
  Stage.code_eq_zero.1 (h.stage.1 ht)

theorem Inv.cleared {s : State} (h : Inv s) {p : BitVec 4} (hs : s.phase = p) (hp : BeforeStream p) : Cleared s := by
  subst hs
  have htag : s.outTag = .none := by
    apply h.outTag_of_busy <;> rcases hp with hp | hp | hp | hp | hp <;> simp [hp]
  refine ⟨?_, ?_, htag, h.outStage_of_no_timeout (by simp [htag])⟩
  · apply h.count.1 <;> rcases hp with hp | hp | hp | hp | hp <;> simp [hp]
  · apply h.frame.1
    rcases hp with hp | hp | hp | hp | hp <;> simp [hp]

/-- The converse, at the positions before the bit stream. -/
theorem Inv.of_cleared {s : State} (p : BitVec 4) (q : BitVec 2) (hat : s.isAt p q)
    (hpq : LegalWord (seqWord p q) ∧ BeforeStream p) (hc : Cleared s) (hpins : PinsLegal s) : Inv s := by
  obtain ⟨hpos, hp⟩ := hpq
  obtain ⟨hdir, hlvl, hdelay⟩ := hpins
  refine ⟨positionLegal_of_isAt hat hpos, ?_, ?_, ?_, ?_, hdir, hlvl, hdelay⟩
  · simp only [CountLegal, hc.n, hat.1]
    rcases hp with rfl | rfl | rfl | rfl | rfl <;> simp
  · simp only [TagLegal, hc.outTag, hat.1]
    rcases hp with rfl | rfl | rfl | rfl | rfl <;> simp
  · simp [StageLegal, hc.outStage, Stage.code]
  · simp [FrameLegal, hc.frame]

/-- The positions before the bit stream at which the block does not drive the line. -/
theorem Inv.of_cleared_released {s : State} (p : BitVec 4) (q : BitVec 2) (hat : s.isAt p q)
    (hpq : LegalWord (seqWord p q) ∧ BeforeStream p ∧ ¬ DrivingPosition p q) (hc : Cleared s) (hr : PinsReleased s) :
    Inv s := by
  obtain ⟨hpos, hp, hd⟩ := hpq
  exact .of_cleared p q hat ⟨hpos, hp⟩ hc (hr.pinsLegal (by rwa [hat.1, hat.2]))

theorem Inv.streaming {s : State} (h : Inv s) (hp : s.phase = Phase.bithigh ∨ s.phase = Phase.pulse) : Streaming s := by
  have htag : s.outTag = .none := by
    apply h.outTag_of_busy <;> rcases hp with hp | hp <;> simp [hp]
  exact ⟨h.count.2.1, h.frame.2 hp, htag, h.outStage_of_no_timeout (by simp [htag])⟩

theorem Inv.of_streaming {s : State} (hp : s.isAt Phase.bithigh 0#2 ∨ s.isAt Phase.pulse 0#2) (hs : Streaming s)
    (hr : PinsReleased s) : Inv s := by
  have hpins : PinsLegal s := hr.pinsLegal (by rcases hp with hp | hp <;> simp [hp.1])
  obtain ⟨hdir, hlvl, hdelay⟩ := hpins
  refine ⟨?_, ?_, ?_, ?_, ?_, hdir, hlvl, hdelay⟩
  · rcases hp with hp | hp <;> exact positionLegal_of_isAt hp (by decide)
  · refine ⟨?_, hs.n_le, ?_⟩ <;> rcases hp with hp | hp <;> simp [hp.1]
  · simp only [TagLegal, hs.outTag]
    rcases hp with hp | hp <;> simp [hp.1]
  · simp [StageLegal, hs.outStage, Stage.code]
  · refine ⟨?_, fun _ => hs.unwritten⟩
    rcases hp with hp | hp <;> simp [hp.1]

theorem Inv.of_complete {s : State} (hp : s.isAt Phase.complete 0#2) (hn : s.n = 39#6) (htag : s.outTag = .frame)
    (hstage : s.outStage = .ackHigh) (hr : PinsReleased s) : Inv s := by
  obtain ⟨hdir, hlvl, hdelay⟩ := hr.pinsLegal (by simp [hp.1])
  refine ⟨positionLegal_of_isAt hp (by decide), ?_, ?_, ?_, ?_, hdir, hlvl, hdelay⟩
  · simp [CountLegal, hp.1, hn]
  · simp [TagLegal, hp.1, htag]
  · simp [StageLegal, hstage, Stage.code]
  · simp [FrameLegal, hp.1]

/-! ### The abort, the start of an attempt, reset -/

theorem PinsReleased.inv_raiseTimeout {s : State} (hr : PinsReleased s) (g : Stage) : Inv (raiseTimeout g s) := by
  have hr' : PinsReleased (raiseTimeout g s) := ⟨hr.dir, hr.lvl, hr.dlyPending⟩
  obtain ⟨hdir, hlvl, hdelay⟩ := hr'.pinsLegal (by simp)
  have hpos : PositionLegal (raiseTimeout g s) :=
    positionLegal_of_isAt (p := Phase.failed) (q := 0#2) ⟨rfl, rfl⟩ (by decide)
  refine ⟨hpos, ?_, ?_, ?_, ?_, hdir, hlvl, hdelay⟩
  · simp [CountLegal]
  · simp [TagLegal]
  · simp [StageLegal, Stage.code_ne_three]
  · simp [FrameLegal]

theorem PinsReleased.inv_beginAttempt {s : State} (hr : PinsReleased s) : Inv (beginAttempt s) :=
  .of_cleared_released Phase.start 0#2 ⟨rfl, rfl⟩ (by decide) ⟨rfl, rfl, rfl, rfl⟩ ⟨hr.dir, hr.lvl, hr.dlyPending⟩

/-- What reset leaves has the invariants, whatever the registers R34 leaves unspecified hold. -/
theorem Inv.of_idle {s : State} (hat : s.isAt Phase.idle 0#2) (hc : Cleared s) (hr : PinsReleased s) : Inv s :=
  .of_cleared_released Phase.idle 0#2 hat (by decide) hc hr

/-! ### The registers the invariants speak of -/

/-- Two states agree on every register R35 speaks of, but for the pending delay. -/
structure SameRegisters (s t : State) : Prop where
  phase : t.phase = s.phase
  sub : t.sub = s.sub
  n : t.n = s.n
  frame : t.frame = s.frame
  outTag : t.outTag = s.outTag
  outStage : t.outStage = s.outStage
  dir : t.dir = s.dir
  lvl : t.lvl = s.lvl

/-- Only the completion of a delay may be seen besides, and R35 item 8 never asks for one that is pending. -/
theorem Inv.of_sameRegisters {s t : State} (h : Inv s) (hst : SameRegisters s t)
    (hd : t.dlyPending = true → s.dlyPending = true) : Inv t := by
  obtain ⟨hphase, hsub, hn, hframe, htag, hstage, hdir, hlvl⟩ := hst
  refine ⟨?_, ?_, ?_, ?_, ?_, ?_, ?_, ?_⟩
  · simpa only [PositionLegal, State.seq, hphase, hsub] using h.position
  · simpa only [CountLegal, hphase, hn] using h.count
  · simpa only [TagLegal, hphase, htag] using h.tag
  · simpa only [StageLegal, htag, hstage] using h.stage
  · simpa only [FrameLegal, hphase, hframe, hn] using h.frame
  · simpa only [DirLegal, hphase, hsub, hdir] using h.dir
  · simpa only [LvlLegal, hphase, hsub, hlvl] using h.lvl
  · simpa only [DelayLegal, hphase, hsub] using fun ht => h.delay (hd ht)

theorem Inv.after_giveAnswer {s : State} (h : Inv s) (a : Answer) : Inv (giveAnswer a s) :=
  h.of_sameRegisters ⟨rfl, rfl, rfl, rfl, rfl, rfl, rfl, rfl⟩ id

theorem Inv.after_timerTick {s : State} (h : Inv s) : Inv (timerTick s) :=
  h.of_sameRegisters ⟨rfl, rfl, rfl, rfl, rfl, rfl, rfl, rfl⟩ id

theorem Inv.after_lineChange {s : State} (h : Inv s) (v : Level) : Inv (lineChange v s) :=
  h.of_sameRegisters ⟨rfl, rfl, rfl, rfl, rfl, rfl, rfl, rfl⟩ id

theorem Inv.after_delayComplete {s : State} (h : Inv s) : Inv (delayComplete s) :=
  h.of_sameRegisters ⟨rfl, rfl, rfl, rfl, rfl, rfl, rfl, rfl⟩ (by simp)

theorem Inv.after_takeMove {s : State} (h : Inv s) : Inv (takeMove s) := by
  refine h.of_sameRegisters ⟨?_, ?_, ?_, ?_, ?_, ?_, ?_, ?_⟩ ?_ <;> simp

theorem inv_applyReset (s : State) : Inv (applyReset s) :=
  .of_idle ⟨rfl, rfl⟩ ⟨rfl, rfl, rfl, rfl⟩ ⟨rfl, rfl, rfl⟩

/-! ### Every op keeps the invariants, at its own position

Before the bit stream an op only moves the position and the pins; what is recorded stays cleared. -/

section
variable {s t : State} (h : Inv s)
include h

theorem Inv.exec_startDrive (hat : s.isAt Phase.start 0#2) (he : exec .startDrive s = .next t) : Inv t := by
  obtain ⟨hp, -⟩ := hat
  obtain ⟨hn, hf, ht, hg⟩ := h.cleared hp (by decide)
  cases he
  refine .of_cleared Phase.start 1#2 ⟨hp, rfl⟩ (by decide) ⟨hn, hf, ht, hg⟩ ?_
  simp [PinsLegal, DirLegal, LvlLegal, DelayLegal, hp]

theorem Inv.exec_startHold (hat : s.isAt Phase.start 1#2) (he : exec .startHold s = .next t) : Inv t := by
  rcases execStartHold_cases he with ⟨hd, rfl⟩ | ⟨-, rfl⟩
  · obtain ⟨hn, hf, ht, hg⟩ := h.cleared hat.1 (by decide)
    have hdir : s.dir = .output := h.dir.2 (.inl hat)
    have hlvl : s.lvl = .low := h.lvl.2 (.inl hat)
    refine .of_cleared Phase.release 0#2 ⟨rfl, rfl⟩ (by decide) ⟨hn, hf, ht, hg⟩ ?_
    simp [PinsLegal, DirLegal, LvlLegal, DelayLegal, hdir, hlvl, hd]
  · exact h

theorem Inv.exec_releaseHigh (hat : s.isAt Phase.release 0#2) (he : exec .releaseHigh s = .next t) : Inv t := by
  obtain ⟨hp, hq⟩ := hat
  obtain ⟨hn, hf, ht, hg⟩ := h.cleared hp (by decide)
  have hdir : s.dir = .output := h.dir.2 (.inr ⟨hp, .inl hq⟩)
  have hdly : s.dlyPending ≠ true := fun hd => by simpa [hp] using (h.delay hd).1
  cases he
  refine .of_cleared Phase.release 1#2 ⟨hp, rfl⟩ (by decide) ⟨hn, hf, ht, hg⟩ ?_
  simp [PinsLegal, DirLegal, LvlLegal, DelayLegal, hp, hdir, hdly]

theorem Inv.exec_releaseFloat (hat : s.isAt Phase.release 1#2) (he : exec .releaseFloat s = .next t) : Inv t := by
  obtain ⟨hp, hq⟩ := hat
  obtain ⟨hn, hf, ht, hg⟩ := h.cleared hp (by decide)
  have hlvl : s.lvl ≠ .low := fun hl => by simpa [hp, hq] using h.lvl.1 hl
  have hdly : s.dlyPending ≠ true := fun hd => by simpa [hp] using (h.delay hd).1
  cases he
  refine .of_cleared Phase.release 2#2 ⟨hp, rfl⟩ (by decide) ⟨hn, hf, ht, hg⟩ ?_
  simp [PinsLegal, DirLegal, LvlLegal, DelayLegal, hp, hlvl, hdly]

theorem Inv.exec_releasePoll (hat : s.isAt Phase.release 2#2) (he : exec .releasePoll s = .next t) : Inv t := by
  rcases execReleasePoll_cases he with ⟨-, rfl⟩ | ⟨-, rfl⟩
  · obtain ⟨hn, hf, ht, hg⟩ := h.cleared hat.1 (by decide)
    obtain ⟨hdir, hlvl, hdly⟩ := h.pinsReleased hat (by decide)
    exact .of_cleared_released Phase.ackhigh 0#2 ⟨rfl, rfl⟩ (by decide) ⟨hn, hf, ht, hg⟩ ⟨hdir, hlvl, hdly⟩
  · exact h

theorem Inv.exec_ackhighPoll (hat : s.isAt Phase.ackhigh 0#2) (he : exec .ackhighPoll s = .next t) : Inv t := by
  have hr : PinsReleased s := h.pinsReleased hat (by decide)
  rcases execAckhighPoll_cases he with ⟨-, rfl⟩ | ⟨-, -, rfl⟩ | ⟨-, -, rfl⟩
  · obtain ⟨hn, hf, ht, hg⟩ := h.cleared hat.1 (by decide)
    exact .of_cleared_released Phase.acklow 0#2 ⟨rfl, hat.2⟩ (by decide) ⟨hn, hf, ht, hg⟩
      ⟨hr.dir, hr.lvl, hr.dlyPending⟩
  · exact hr.inv_raiseTimeout _
  · exact h

theorem Inv.exec_acklowPoll (hat : s.isAt Phase.acklow 0#2) (he : exec .acklowPoll s = .next t) : Inv t := by
  have hr : PinsReleased s := h.pinsReleased hat (by decide)
  rcases execAcklowPoll_cases he with ⟨-, rfl⟩ | ⟨-, -, rfl⟩ | ⟨-, -, rfl⟩
  · obtain ⟨-, hf, ht, hg⟩ := h.cleared hat.1 (by decide)
    exact .of_streaming (.inl ⟨rfl, hat.2⟩) ⟨by simp, by simp [hf], ht, hg⟩ ⟨hr.dir, hr.lvl, hr.dlyPending⟩
  · exact hr.inv_raiseTimeout _
  · exact h

theorem Inv.exec_bithighPoll (hat : s.isAt Phase.bithigh 0#2) (he : exec .bithighPoll s = .next t) : Inv t := by
  have hr : PinsReleased s := h.pinsReleased hat (by decide)
  rcases execBithighPoll_cases he with ⟨-, rfl⟩ | ⟨-, -, rfl⟩ | ⟨-, -, rfl⟩
  · obtain ⟨hn, hu, ht, hg⟩ := h.streaming (.inl hat.1)
    exact .of_streaming (.inr ⟨rfl, hat.2⟩) ⟨hn, hu, ht, hg⟩ ⟨hr.dir, hr.lvl, hr.dlyPending⟩
  · exact hr.inv_raiseTimeout _
  · exact h

/-- A bit short of the last is stored at position `n` and `n` moves past it, so the positions from the new `n` on are still
unwritten. -/
theorem Inv.exec_pulsePoll (hat : s.isAt Phase.pulse 0#2) (he : exec .pulsePoll s = .next t) : Inv t := by
  obtain ⟨hdir, hlvl, hdly⟩ := h.pinsReleased hat (by decide)
  obtain ⟨-, hu, ht, hg⟩ := h.streaming (.inr hat.1)
  rcases execPulsePoll_cases he with ⟨-, rfl⟩ | ⟨-, hn, rfl⟩ | ⟨-, hn, rfl⟩
  · exact h
  · have hsucc : (s.n + 1#6).toNat = s.n.toNat + 1 := by
      rw [BitVec.toNat_add, BitVec.toNat_ofNat]
      omega
    refine .of_streaming (.inl ⟨rfl, hat.2⟩) ⟨?_, ?_, ht, hg⟩ ⟨hdir, hlvl, hdly⟩
    · simp only [timerReset_n, changePhase_n, hsucc]
      omega
    · intro p hle
      simp only [timerReset_n, timerReset_frame, changePhase_n, changePhase_frame, storeBit_frame, hsucc] at hle ⊢
      rw [Frame.streamBit_pack _ _ (by omega), if_neg (by omega)]
      exact hu p (by omega)
  · exact .of_complete ⟨rfl, hat.2⟩ (BitVec.eq_of_toNat_eq hn) rfl rfl ⟨hdir, hlvl, hdly⟩

theorem Inv.exec_cmdStart (he : exec .cmdStart s = .next t) : Inv t := by
  rcases execCmdStart_cases he with ⟨-, rfl⟩ | ⟨hb, rfl⟩
  · exact h
  · refine (h.pinsReleased ⟨rfl, rfl⟩ fun hd => ?_).inv_beginAttempt
    rcases hd with ⟨hp, -⟩ | ⟨hp, -⟩ <;> simp [busy, hp] at hb

/-- A core step runs the op of the position it starts at. -/
theorem Inv.exec_seq {i : Instr} (hd : decodeSeq s.seq = .ok i) (he : exec i s = .next t) : Inv t := by
  rcases decodeSeq_cases hd with ⟨hat, rfl⟩ | ⟨hat, rfl⟩ | ⟨hat, rfl⟩ | ⟨hat, rfl⟩ | ⟨hat, rfl⟩ | ⟨hat, rfl⟩ |
    ⟨hat, rfl⟩ | ⟨hat, rfl⟩ | ⟨hat, rfl⟩ | ⟨hat, rfl⟩ | ⟨hat, rfl⟩ | ⟨hat, rfl⟩
  · cases he
    exact h
  · exact h.exec_startDrive hat he
  · exact h.exec_startHold hat he
  · exact h.exec_releaseHigh hat he
  · exact h.exec_releaseFloat hat he
  · exact h.exec_releasePoll hat he
  · exact h.exec_ackhighPoll hat he
  · exact h.exec_acklowPoll hat he
  · exact h.exec_bithighPoll hat he
  · exact h.exec_pulsePoll hat he
  · cases he
    exact h
  · cases he
    exact h

theorem Inv.after_takeStep {m : Move} (hm : takeStep m s = .next t) : Inv t := by
  rcases takeStep_next_cases hm with ⟨-, rfl⟩ | ⟨-, rfl⟩ | ⟨v, -, rfl⟩ | ⟨-, rfl⟩ | ⟨a, v, -, -, rfl⟩ |
    ⟨c, i, hf, hd, he, -⟩
  · exact inv_applyReset s
  · exact h.after_timerTick
  · exact h.after_lineChange v
  · exact h.after_delayComplete
  · exact h
  · rcases fetch_cases hf hd with ⟨-, hseq⟩ | ⟨rfl, -⟩ | ⟨a, rfl⟩ | ⟨e, rfl⟩ | ⟨n, b, rfl⟩ | ⟨_, _, _, _, _, rfl⟩
    · exact h.exec_seq hseq he
    · exact h.exec_cmdStart he
    · cases he
      exact h.after_giveAnswer _
    · cases he
      exact h.after_giveAnswer _
    · obtain ⟨-, rfl⟩ := execPack_cases he
      exact h.after_giveAnswer _
    · cases he
      exact h.after_giveAnswer _

end

/-- Settles O25: the move comes off the schedule, and then each agent's step keeps the invariants. -/
theorem everyStepKeepsTheInvariants : Obligations.EveryStepKeepsTheInvariants := by
  unfold Obligations.EveryStepKeepsTheInvariants
  intro s t h hstep
  exact h.after_takeMove.after_takeStep hstep

/-- Settles O24: reset stands in Idle with nothing recorded and the line released. -/
theorem resetMeetsTheInvariants : Obligations.ResetMeetsTheInvariants :=
  .of_idle ⟨rfl, rfl⟩ ⟨rfl, rfl, rfl, rfl⟩ ⟨rfl, rfl, rfl⟩

/-- Settles O27: reset has the invariants in every configuration `Reachable` starts from, and every step keeps them. -/
theorem reachableStatesMeetTheInvariants : Obligations.ReachableStatesMeetTheInvariants := by
  unfold Obligations.ReachableStatesMeetTheInvariants
  intro s hs
  refine hs.of_invariant (fun ms p e v d _ _ => ?_) everyStepKeepsTheInvariants
  exact .of_idle ⟨rfl, rfl⟩ ⟨rfl, rfl, rfl, rfl⟩ ⟨rfl, rfl, rfl⟩

end Sys2Proof.Machine

/-! ### Which moves step, and to what

A legal state stops for no word but one: the sequencer's own word is legal, and of the words a move carries only PACK's has
positions without a meaning (spec/42_bitstream.md R105). -/

namespace Sys2Proof.Machine

theorem decodeSeq_of_positionLegal {s : State} (h : PositionLegal s) : ∃ i, decodeSeq s.seq = .ok i := by
  rcases position_cases h with hat | hat | hat | hat | hat | hat | hat | hat | hat | hat | hat | hat <;>
    exact ⟨_, by rw [seq_of_isAt hat]; rfl⟩

/-- Of the instructions only PACK has an ill-formed operand, and its decoder refuses that one. -/
theorem wellFormed_of_decode {c : Code} {i : Instr} (h : decode c = .ok i) : i.wellFormed = true := by
  cases c with
  | seq w =>
    simp only [decode, decodeSeq] at h
    split at h <;> cases h <;> rfl
  | hostWrite a v =>
    simp only [decode, decodeHostWrite] at h
    split at h <;> cases h
    rfl
  | pack w =>
    simp only [decode, decodePack] at h
    split at h <;> cases h
    exact decide_eq_true ‹_›
  | hostRead _ | bitdec _ | chksum _ =>
    cases h
    rfl

/-- Why a word selects no operation, by the place it arrives at. -/
theorem decode_error_cases {c : Code} {e : DecodeError} (h : decode c = .error e) :
    (∃ w, c = .seq w ∧ e = .reservedSeq) ∨ (∃ a v, c = .hostWrite a v ∧ e = .notACommand) ∨
    (∃ w : BitVec 7, c = .pack w ∧ 40 ≤ (w.extractLsb' 1 6).toNat ∧ e = .framePosition) := by
  cases c with
  | seq w =>
    simp only [decode, decodeSeq] at h
    split at h <;> cases h
    exact .inl ⟨w, rfl, rfl⟩
  | hostWrite a v =>
    simp only [decode, decodeHostWrite] at h
    split at h <;> cases h
    exact .inr (.inl ⟨a, v, rfl, rfl⟩)
  | pack w =>
    simp only [decode, decodePack] at h
    split at h <;> cases h
    exact .inr (.inr ⟨w, rfl, Nat.not_lt.1 ‹_›, rfl⟩)
  | hostRead _ | bitdec _ | chksum _ => cases h

/-- PULSE.POLL and PACK are the only instructions that can stop, both at a position of 40 or more. -/
theorem exec_steps {i : Instr} {s : State} (hn : s.n.toNat < 40) (hi : i.wellFormed = true) :
    ∃ t, exec i s = .next t := by
  cases i with
  | startHold | releasePoll | ackhighPoll | acklowPoll | bithighPoll | cmdStart =>
    simp only [exec, execStartHold, execReleasePoll, execAckhighPoll, execAcklowPoll, execBithighPoll, execCmdStart]
    split <;> exact ⟨_, rfl⟩
  | pulsePoll =>
    simp only [exec, execPulsePoll]
    split
    · exact ⟨_, rfl⟩
    · split
      · exact ⟨_, rfl⟩
      · exact ⟨_, if_pos (by omega)⟩
  | pack n b => exact ⟨_, if_pos (of_decide_eq_true hi)⟩
  | idleWait | startDrive | releaseHigh | releaseFloat | completeHold | failedHold | hostRd _ | bitdec _
  | chksum _ _ _ _ _ => exact ⟨_, rfl⟩

theorem runMove_of_fetch {m : Move} {s : State} {c : Code} (h : fetch m s = some c) : runMove m s = runCode c s := by
  cases m <;> cases h <;> rfl

theorem runMove_of_fetch_none {m : Move} {s : State} (h : fetch m s = none) : ∃ t, runMove m s = .next t := by
  cases m with
  | tick | line _ | delayDone | rst => exact ⟨_, rfl⟩
  | core | hostWrite _ _ | hostRead _ | evalBitdec _ | evalPack _ | evalChksum _ => cases h

theorem runCode_of_decode {c : Code} {i : Instr} {s : State} (h : decode c = .ok i) : runCode c s = exec i s := by
  simp only [runCode, h]

theorem eq_seq_of_fetch {m : Move} {s : State} {w : BitVec 6} (h : fetch m s = some (.seq w)) : w = s.seq := by
  cases m <;> cases h
  rfl

theorem eq_evalPack_of_fetch {m : Move} {s : State} {w : BitVec 7} (h : fetch m s = some (.pack w)) :
    m = .evalPack w := by
  cases m <;> cases h
  rfl

/-- No instruction's word depends on the schedule. -/
theorem fetch_withMoves (m : Move) (s : State) (ms : List Move) : fetch m { s with moves := ms } = fetch m s := by
  cases m <;> rfl

/-- What one move of any agent can do in a legal state: step, or stop at the evaluation of a PACK without a meaning. -/
theorem Inv.takeStep_steps_or_pack {s : State} (h : Inv s) (m : Move) :
    (∃ t, takeStep m s = .next t) ∨
      ∃ w : BitVec 7, m = .evalPack w ∧ 40 ≤ (w.extractLsb' 1 6).toNat ∧ takeStep m s = .fault .framePosition := by
  have hn : s.n.toNat < 40 := Nat.lt_succ_of_le h.count.2.1
  rw [takeStep_of_legal (reservedFault_of_legal h.position hn)]
  cases hf : fetch m s with
  | none => exact .inl (runMove_of_fetch_none hf)
  | some c =>
    rw [runMove_of_fetch hf]
    cases hd : decode c with
    | ok i =>
      rw [runCode_of_decode hd]
      exact .inl (exec_steps hn (wellFormed_of_decode hd))
    | error e =>
      rcases decode_error_cases hd with ⟨w, rfl, -⟩ | ⟨_, _, -, rfl⟩ | ⟨w, rfl, hw, rfl⟩
      · obtain ⟨i, hi⟩ := decodeSeq_of_positionLegal h.position
        rw [eq_seq_of_fetch hf, decode, hi] at hd
        cases hd
      · exact .inl ⟨s, by simp only [runCode, hd]⟩
      · exact .inr ⟨w, eq_evalPack_of_fetch hf, hw, by simp only [runCode, hd]⟩

/-- A scheduled move whose word decodes runs the decoded instruction. -/
theorem step_of_fetch {s : State} {m : Move} {rest : List Move} {c : Code} {i : Instr} (hr : reservedFault s = none)
    (hm : s.moves = m :: rest) (hf : fetch m s = some c) (hd : decode c = .ok i) :
    step s = exec i { s with moves := rest } := by
  have hr' : reservedFault { s with moves := rest } = none := hr
  have hf' : fetch m { s with moves := rest } = some c := (fetch_withMoves m s rest).trans hf
  rw [step_of_cons hm, takeStep_of_legal hr', runMove_of_fetch hf', runCode_of_decode hd]

/-- Settles O26: taking the move off the schedule leaves a legal state, in which the move steps or is that PACK. -/
theorem legalStatesAlwaysStep : Obligations.LegalStatesAlwaysStep := by
  unfold Obligations.LegalStatesAlwaysStep
  intro s h
  exact h.after_takeMove.takeStep_steps_or_pack (nextMove s)

/-- Settles O21: each of the six moves presents its word to the decoder. -/
theorem stepRunsTheDecodedInstruction : Obligations.StepRunsTheDecodedInstruction := by
  unfold Obligations.StepRunsTheDecodedInstruction
  intro s rest i hn hp
  have hr : reservedFault s = none := reservedFault_of_legal hp hn
  refine ⟨?_, ?_, ?_, ?_, ?_, ?_⟩
  · exact fun hm hd => step_of_fetch hr hm rfl hd
  · exact fun a v hm hd => step_of_fetch hr hm rfl hd
  · exact fun a hm hd => step_of_fetch hr hm rfl hd
  · exact fun w hm hd => step_of_fetch hr hm rfl hd
  · exact fun w hm hd => step_of_fetch hr hm rfl hd
  · exact fun w hm hd => step_of_fetch hr hm rfl hd

/-! ### Who writes the frame buffer and the pins -/

theorem exec_cmdStart_frame {s t : State} (h : exec .cmdStart s = .next t) :
    t.frame = s.frame ∨ (t.phase = 1#4 ∧ t.frame = Frame.zero) := by
  rcases execCmdStart_cases h with ⟨-, rfl⟩ | ⟨-, rfl⟩
  · exact .inl rfl
  · exact .inr ⟨rfl, rfl⟩

theorem exec_pulsePoll_streamBit {s t : State} (h : exec .pulsePoll s = .next t) {p : Nat} (hp : p ≠ s.n.toNat) :
    t.frame.streamBit p = s.frame.streamBit p := by
  rcases execPulsePoll_cases h with ⟨-, rfl⟩ | ⟨-, hn, rfl⟩ | ⟨-, hn, rfl⟩
  · rfl
  · simp [Frame.streamBit_pack _ _ (Nat.lt_succ_of_lt hn), hp]
  · simp [Frame.streamBit_pack _ _ (Nat.lt_succ_of_le (Nat.le_of_eq hn)), hp]

/-- A budgeted poll that finds its level or waits leaves the frame alone; one that times out aborts (R132). -/
theorem exec_budgetedPoll_frame {i : Instr} {s t : State} (hi : i = .ackhighPoll ∨ i = .acklowPoll ∨ i = .bithighPoll)
    (h : exec i s = .next t) :
    t.frame = s.frame ∨ (t.phase = 8#4 ∧ t.outTag = .timeout ∧ t.frame = Frame.zero) := by
  rcases hi with rfl | rfl | rfl
  · rcases execAckhighPoll_cases h with ⟨-, rfl⟩ | ⟨-, -, rfl⟩ | ⟨-, -, rfl⟩ <;> simp
  · rcases execAcklowPoll_cases h with ⟨-, rfl⟩ | ⟨-, -, rfl⟩ | ⟨-, -, rfl⟩ <;> simp
  · rcases execBithighPoll_cases h with ⟨-, rfl⟩ | ⟨-, -, rfl⟩ | ⟨-, -, rfl⟩ <;> simp

theorem exec_frame_of_no_writer {i : Instr} {s t : State} (hc : i ≠ .cmdStart) (hp : i ≠ .pulsePoll)
    (hh : i ≠ .ackhighPoll) (hl : i ≠ .acklowPoll) (hb : i ≠ .bithighPoll) (h : exec i s = .next t) :
    t.frame = s.frame := by
  cases i with
  | cmdStart | pulsePoll | ackhighPoll | acklowPoll | bithighPoll => contradiction
  | startHold => rcases execStartHold_cases h with ⟨-, rfl⟩ | ⟨-, rfl⟩ <;> rfl
  | releasePoll => rcases execReleasePoll_cases h with ⟨-, rfl⟩ | ⟨-, rfl⟩ <;> rfl
  | pack n b =>
    obtain ⟨-, rfl⟩ := execPack_cases h
    rfl
  | idleWait | startDrive | releaseHigh | releaseFloat | completeHold | failedHold | hostRd _ | bitdec _
  | chksum _ _ _ _ _ =>
    cases h
    rfl

/-- Settles O31: one lemma per writer, and one for every instruction that is none. -/
theorem frameHasThreeWriters : Obligations.FrameHasThreeWriters := by
  unfold Obligations.FrameHasThreeWriters
  intro i s t h
  refine ⟨?_, ?_, ?_, ?_⟩
  · rintro rfl
    exact exec_cmdStart_frame h
  · rintro rfl p - hp
    exact exec_pulsePoll_streamBit h hp
  · exact fun hi => exec_budgetedPoll_frame hi h
  · exact fun hc hp hh hl hb => exec_frame_of_no_writer hc hp hh hl hb h

/-- Two states agree on the pin latches, the delay, and what belongs to the environment or to the model alone. -/
structure SamePins (s t : State) : Prop where
  dir : t.dir = s.dir
  lvl : t.lvl = s.lvl
  dlyPending : t.dlyPending = s.dlyPending
  dlyMs : t.dlyMs = s.dlyMs
  line : t.line = s.line
  params : t.params = s.params
  moves : t.moves = s.moves
  draws : t.draws = s.draws

theorem exec_samePins {i : Instr} {s t : State} (hd : i ≠ .startDrive) (hh : i ≠ .releaseHigh) (hf : i ≠ .releaseFloat)
    (h : exec i s = .next t) : SamePins s t := by
  cases i with
  | startDrive | releaseHigh | releaseFloat => contradiction
  | startHold => rcases execStartHold_cases h with ⟨-, rfl⟩ | ⟨-, rfl⟩ <;> constructor <;> rfl
  | releasePoll => rcases execReleasePoll_cases h with ⟨-, rfl⟩ | ⟨-, rfl⟩ <;> constructor <;> rfl
  | ackhighPoll => rcases execAckhighPoll_cases h with ⟨-, rfl⟩ | ⟨-, -, rfl⟩ | ⟨-, -, rfl⟩ <;> constructor <;> rfl
  | acklowPoll => rcases execAcklowPoll_cases h with ⟨-, rfl⟩ | ⟨-, -, rfl⟩ | ⟨-, -, rfl⟩ <;> constructor <;> rfl
  | bithighPoll => rcases execBithighPoll_cases h with ⟨-, rfl⟩ | ⟨-, -, rfl⟩ | ⟨-, -, rfl⟩ <;> constructor <;> rfl
  | pulsePoll => rcases execPulsePoll_cases h with ⟨-, rfl⟩ | ⟨-, -, rfl⟩ | ⟨-, -, rfl⟩ <;> constructor <;> rfl
  | cmdStart => rcases execCmdStart_cases h with ⟨-, rfl⟩ | ⟨-, rfl⟩ <;> constructor <;> rfl
  | pack n b =>
    obtain ⟨-, rfl⟩ := execPack_cases h
    constructor <;> rfl
  | idleWait | completeHold | failedHold | hostRd _ | bitdec _ | chksum _ _ _ _ _ =>
    cases h
    constructor <;> rfl

/-- Settles O32: the three writers each write their own latches, and every other instruction writes none. -/
theorem pinLatchesHaveThreeWriters : Obligations.PinLatchesHaveThreeWriters := by
  unfold Obligations.PinLatchesHaveThreeWriters
  intro i s t h
  by_cases hi : i = .startDrive ∨ i = .releaseHigh ∨ i = .releaseFloat
  · rcases hi with rfl | rfl | rfl <;> cases h <;> simp
  · obtain ⟨hd, hh, hf⟩ : i ≠ .startDrive ∧ i ≠ .releaseHigh ∧ i ≠ .releaseFloat := by simpa using hi
    obtain ⟨hdir, hlvl, hdly, hms, hline, hparams, hmoves, hdraws⟩ := exec_samePins hd hh hf h
    exact ⟨fun _ _ => hdir, fun _ _ => hlvl, fun _ => ⟨hdly, hms⟩, hline, hparams, hmoves, hdraws⟩

/-! ### The window -/

/-- `sub` is seen at the address of `SEQ` alone (spec/10_state.md R23). -/
theorem memRead_setSub {s : State} {a : BitVec 4} (k : BitVec 2) (ha : a ≠ 0x2#4) :
    memRead (setSub k s) a = memRead s a := by
  have h2 : a.toNat ≠ 2 := fun h => ha (BitVec.eq_of_toNat_eq h)
  unfold memRead
  split
  case h_3 h => exact absurd h h2
  all_goals rfl

theorem memRead_giveAnswer (x : Answer) (s : State) (a : BitVec 4) : memRead (giveAnswer x s) a = memRead s a := rfl

/-- The resting ops, the host read and the functions do nothing but hand out an answer, if that. -/
theorem exec_only_answers {i : Instr} {s t : State} (h : exec i s = .next t)
    (hi : i = .idleWait ∨ i = .completeHold ∨ i = .failedHold ∨ (∃ b, i = .hostRd b) ∨ (∃ e, i = .bitdec e) ∨
      (∃ n b, i = .pack n b) ∨ (∃ h g u v c, i = .chksum h g u v c)) : ∃ x, t = giveAnswer x s := by
  rcases hi with rfl | rfl | rfl | ⟨b, rfl⟩ | ⟨e, rfl⟩ | ⟨n, b, rfl⟩ | ⟨_, _, _, _, _, rfl⟩
  · cases h
    exact ⟨s.answer, rfl⟩
  · cases h
    exact ⟨s.answer, rfl⟩
  · cases h
    exact ⟨s.answer, rfl⟩
  · cases h
    exact ⟨_, rfl⟩
  · cases h
    exact ⟨_, rfl⟩
  · exact ⟨_, (execPack_cases h).2⟩
  · cases h
    exact ⟨_, rfl⟩

/-- Settles O35: an answer and the pin latches are seen at no address, and `sub` at that of `SEQ` alone. -/
theorem windowBytesOtherOpsLeaveAlone : Obligations.WindowBytesOtherOpsLeaveAlone := by
  unfold Obligations.WindowBytesOtherOpsLeaveAlone
  intro i s t a h
  constructor
  · intro hi
    obtain ⟨x, rfl⟩ := exec_only_answers h hi
    exact memRead_giveAnswer x s a
  · rintro (rfl | rfl | rfl) ha <;> cases h <;> exact memRead_setSub _ ha

/-- Settles O5: the reset state is a literal, so each register is read off, and the window at each of its 16 addresses. -/
theorem resetLeavesTheStatedValues : Obligations.ResetLeavesTheStatedValues := by
  have hwindow : ∀ a : BitVec 4, memRead State.reset a = 0x00#8 := by decide
  exact ⟨rfl, rfl, rfl, rfl, rfl, rfl, rfl, rfl, rfl, rfl, rfl, rfl, rfl, rfl, hwindow⟩

/-! ### STATUS -/

theorem Inv.statusByte_of_no_outcome {s : State} (h : Inv s) (ht : s.outTag = .none) :
    statusByte s = if busy s then 0x01#8 else 0x00#8 := by
  have hg : s.outStage = .ackHigh := h.outStage_of_no_timeout (by simp [ht])
  cases hb : busy s <;> simp [statusByte, chkOk, err, done, ht, hg, hb, Stage.code]

theorem Inv.statusByte_of_frame {s : State} (h : Inv s) (ht : s.outTag = .frame) :
    statusByte s = if chksum s.frame then 0x0A#8 else 0x02#8 := by
  have hg : s.outStage = .ackHigh := h.outStage_of_no_timeout (by simp [ht])
  have hb : busy s = false := by simp [busy, h.tag.2.1.1 ht]
  cases hc : chksum s.frame <;> simp [statusByte, chkOk, err, done, ht, hg, hb, hc, Stage.code]

theorem Inv.statusByte_of_timeout {s : State} (h : Inv s) (ht : s.outTag = .timeout) :
    statusByte s = 0#2 ++ s.outStage.code ++ 0x6#4 := by
  have hb : busy s = false := by simp [busy, h.tag.2.2.1 ht]
  cases hg : s.outStage <;> simp [statusByte, chkOk, err, done, ht, hg, hb, Stage.code]

theorem pinsReleased_reset : PinsReleased State.reset := ⟨rfl, rfl, rfl⟩

/-- Reset with a completed frame in the buffer. -/
def completedWith (f : Frame) : State :=
  { State.reset with phase := Phase.complete, n := 39#6, outTag := .frame, frame := f }

theorem inv_completedWith (f : Frame) : Inv (completedWith f) :=
  .of_complete ⟨rfl, rfl⟩ rfl rfl rfl ⟨rfl, rfl, rfl⟩

/-- Settles O41: the outcome decides the byte, and reset, a fresh attempt, two frames and three timeouts attain the
seven. -/
theorem statusReadsOneOfSevenValues : Obligations.StatusReadsOneOfSevenValues := by
  unfold Obligations.StatusReadsOneOfSevenValues
  constructor
  · intro s h
    change statusByte s ∈ _
    cases ht : s.outTag with
    | none =>
      rw [h.statusByte_of_no_outcome ht]
      split <;> simp
    | frame =>
      rw [h.statusByte_of_frame ht]
      split <;> simp
    | timeout =>
      rw [h.statusByte_of_timeout ht]
      cases s.outStage <;> decide
  · simp only [List.forall_mem_cons, List.not_mem_nil, false_imp_iff, implies_true, and_true]
    refine ⟨?_, ?_, ?_, ?_, ?_, ?_, ?_⟩
    · exact ⟨_, resetMeetsTheInvariants, rfl⟩
    · exact ⟨_, pinsReleased_reset.inv_beginAttempt, rfl⟩
    · exact ⟨_, inv_completedWith { Frame.zero with checksum := 0x01#8 }, by decide⟩
    · exact ⟨_, inv_completedWith Frame.zero, by decide⟩
    · exact ⟨_, pinsReleased_reset.inv_raiseTimeout .ackHigh, rfl⟩
    · exact ⟨_, pinsReleased_reset.inv_raiseTimeout .ackLow, rfl⟩
    · exact ⟨_, pinsReleased_reset.inv_raiseTimeout .bitHigh, rfl⟩

end Sys2Proof.Machine

/-! ### The devices and the frame buffer (spec/20_memory.md)

Who depends on the line and on the timer (R55, R56, R59), where the bits of the frame stand (R42, R43), and what a frame bit
write does (R58). -/

namespace Sys2Proof.Machine

/-! ### Bits of the frame as a number -/

/-- Bit `k` of the frame as one 40-bit number lies in byte `4 - k / 8`, at position `k % 8`: `F[0]` is the high byte. -/
theorem Frame.getLsbD_word40 (f : Frame) {k : Nat} (hk : k < 40) :
    f.word40.getLsbD k = (f.byte (4 - k / 8)).getLsbD (k % 8) := by
  obtain ⟨i, j, hi, hj, rfl⟩ : ∃ i j, i < 5 ∧ j < 8 ∧ k = 8 * i + j := ⟨k / 8, k % 8, by omega, by omega, by omega⟩
  have hdiv : (8 * i + j) / 8 = i := by omega
  have hmod : (8 * i + j) % 8 = j := by omega
  rw [hdiv, hmod, Frame.word40]
  simp only [BitVec.getLsbD_append]
  obtain rfl | rfl | rfl | rfl | rfl : i = 0 ∨ i = 1 ∨ i = 2 ∨ i = 3 ∨ i = 4 := by omega
  all_goals simp +arith [hj, Frame.byte]

/-- Settles O45: bit `39 - n` lies in byte `n / 8`, at position `7 - n % 8`. -/
theorem streamBitsRunFromTheTopOfTheFrame : Obligations.StreamBitsRunFromTheTopOfTheFrame := by
  unfold Obligations.StreamBitsRunFromTheTopOfTheFrame
  intro f n hn
  have hbyte : 4 - (39 - n) / 8 = byteIndex n := by unfold byteIndex; omega
  have hbit : (39 - n) % 8 = bitPosition n := by unfold bitPosition; omega
  rw [f.getLsbD_word40 (by omega), hbyte, hbit, Frame.streamBit]

/-- Settles O46: PACK assigns the bit at its own stream position and no other. -/
theorem packAssignsOneStreamBit : Obligations.PackAssignsOneStreamBit := by
  unfold Obligations.PackAssignsOneStreamBit
  exact fun f _ _ b hn _ => f.streamBit_pack b hn

/-! ### What the ops that branch answer on each branch -/

theorem execStartHold_of_done {s : State} (h : s.dlyPending = false) :
    execStartHold s = .next (enterPhase Phase.release s) := by
  simp [execStartHold, delayDone, h]

theorem execStartHold_of_pending {s : State} (h : s.dlyPending = true) : execStartHold s = .next s := by
  simp [execStartHold, delayDone, h]

theorem execReleasePoll_of_low {s : State} (h : s.line = .low) :
    execReleasePoll s = .next (timerReset (enterPhase Phase.ackhigh s)) := by
  simp [execReleasePoll, poll_hit h]

theorem execReleasePoll_of_high {s : State} (h : s.line = .high) : execReleasePoll s = .next s := by
  simp [execReleasePoll, poll_none (awaited := .low) (s := s) (by simp [h])]

theorem execPulsePoll_of_high {s : State} (h : s.line = .high) : execPulsePoll s = .next s := by
  simp [execPulsePoll, readLevel, h]

theorem execCmdStart_of_busy {s : State} (h : busy s = true) : execCmdStart s = .next s := by
  simp [execCmdStart, h]

theorem execCmdStart_of_not_busy {s : State} (h : busy s = false) : execCmdStart s = .next (beginAttempt s) := by
  simp [execCmdStart, h]

theorem execPack_of_lt {n : BitVec 6} (b : Bool) (s : State) (h : n.toNat < 40) :
    execPack n b s = .next (giveAnswer (.frame (pack s.frame n.toNat b)) s) := if_pos h

/-! ### Who reads the timer -/

/-- The ops that neither read nor reset the timer: each takes the branch it took, whatever the count. -/
theorem exec_with_ticks {i : Instr} {s t : State} (e : Nat) (hr : i ≠ .releasePoll) (hh : i ≠ .ackhighPoll)
    (hl : i ≠ .acklowPoll) (hb : i ≠ .bithighPoll) (hp : i = .pulsePoll → s.line = .high) (h : exec i s = .next t) :
    exec i { s with ticks := e } = .next { t with ticks := e } := by
  cases i with
  | releasePoll | ackhighPoll | acklowPoll | bithighPoll => contradiction
  | startHold =>
    rcases execStartHold_cases h with ⟨hd, rfl⟩ | ⟨hd, rfl⟩
    · exact execStartHold_of_done hd
    · exact execStartHold_of_pending hd
  | pulsePoll =>
    have hs : exec .pulsePoll s = .next s := execPulsePoll_of_high (hp rfl)
    cases hs.symm.trans h
    exact execPulsePoll_of_high (hp rfl)
  | cmdStart =>
    rcases execCmdStart_cases h with ⟨hbusy, rfl⟩ | ⟨hbusy, rfl⟩
    · exact execCmdStart_of_busy hbusy
    · exact execCmdStart_of_not_busy hbusy
  | pack n b =>
    obtain ⟨hn, rfl⟩ := execPack_cases h
    exact execPack_of_lt b _ hn
  | idleWait | startDrive | releaseHigh | releaseFloat | completeHold | failedHold | hostRd _ | bitdec _
  | chksum _ _ _ _ _ =>
    cases h
    rfl

/-- RELEASE.POLL resets the timer when it finds the line low, and never reads it (spec/41_handshake.md R95). -/
theorem exec_releasePoll_with_ticks {s t : State} (e : Nat) (h : exec .releasePoll s = .next t) :
    exec .releasePoll { s with ticks := e } = .next { t with ticks := if s.line = .low then 0 else e } := by
  rcases execReleasePoll_cases h with ⟨hl, rfl⟩ | ⟨hl, rfl⟩
  · rw [if_pos hl]
    exact execReleasePoll_of_low hl
  · rw [if_neg (by simp [hl])]
    exact execReleasePoll_of_high hl

/-- Settles O36: RELEASE.POLL resets the timer unread, and the other ops do not touch it. -/
theorem timerIsReadOnlyInTimedWaits : Obligations.TimerIsReadOnlyInTimedWaits := by
  unfold Obligations.TimerIsReadOnlyInTimedWaits
  intro i s t e hh hl hb hp h
  by_cases hi : i = .releasePoll
  · subst hi
    simpa using exec_releasePoll_with_ticks e h
  · simpa [hi] using exec_with_ticks e hi hh hl hb hp h

/-! ### Who samples the line -/

/-- The ops at the positions where the block drives the line. -/
theorem DrivingPosition.decodeSeq_cases {p : BitVec 4} {q : BitVec 2} (h : DrivingPosition p q) :
    LegalWord (seqWord p q) ∧
      ∃ i, decodeSeq (seqWord p q) = .ok i ∧ (i = .startHold ∨ i = .releaseHigh ∨ i = .releaseFloat) := by
  obtain ⟨rfl, rfl⟩ | ⟨rfl, rfl | rfl⟩ := h
  · exact ⟨by decide, .startHold, rfl, by simp⟩
  · exact ⟨by decide, .releaseHigh, rfl, by simp⟩
  · exact ⟨by decide, .releaseFloat, rfl, by simp⟩

/-- START.HOLD, RELEASE.HIGH and RELEASE.FLOAT do the same whatever the level on the line. -/
theorem exec_with_line {i : Instr} {s t : State} (v : Level) (hi : i = .startHold ∨ i = .releaseHigh ∨ i = .releaseFloat)
    (h : exec i s = .next t) : exec i { s with line := v } = .next { t with line := v } := by
  rcases hi with rfl | rfl | rfl
  · rcases execStartHold_cases h with ⟨hd, rfl⟩ | ⟨hd, rfl⟩
    · exact execStartHold_of_done hd
    · exact execStartHold_of_pending hd
  · cases h
    rfl
  · cases h
    rfl

/-- Settles O37: the line is driven at three positions only, and the op of none of them reads the level. -/
theorem lineIsNeverSampledWhileDriven : Obligations.LineIsNeverSampledWhileDriven := by
  unfold Obligations.LineIsNeverSampledWhileDriven
  intro s t v hinv hout h
  have hn : s.n.toNat < 40 := Nat.lt_succ_of_le hinv.count.2.1
  obtain ⟨hword, i, hdec, hi⟩ := DrivingPosition.decodeSeq_cases (hinv.dir.1 hout)
  have hexec : exec i s = .next t := (takeStep_core_of_isAt ⟨rfl, rfl⟩ hn hdec hword).symm.trans h
  calc takeStep .core { s with line := v }
    _ = exec i { s with line := v } := takeStep_core_of_isAt (s := { s with line := v }) ⟨rfl, rfl⟩ hn hdec hword
    _ = .next { t with line := v } := exec_with_line v hi hexec

/-! ### The range of the counter -/

theorem Params.wrap_le_tickMax (p : Params) (c : Nat) : p.wrap c ≤ p.tickMax := Nat.le_sub_one_of_lt (Params.wrap_lt p c)

/-- To an instruction the timer is there to be reset, if that: it never sets another count. -/
theorem exec_ticks_cases {i : Instr} {s t : State} (h : exec i s = .next t) : t.ticks = s.ticks ∨ t.ticks = 0 := by
  cases i with
  | startHold => rcases execStartHold_cases h with ⟨-, rfl⟩ | ⟨-, rfl⟩ <;> simp
  | releasePoll => rcases execReleasePoll_cases h with ⟨-, rfl⟩ | ⟨-, rfl⟩ <;> simp
  | ackhighPoll => rcases execAckhighPoll_cases h with ⟨-, rfl⟩ | ⟨-, -, rfl⟩ | ⟨-, -, rfl⟩ <;> simp
  | acklowPoll => rcases execAcklowPoll_cases h with ⟨-, rfl⟩ | ⟨-, -, rfl⟩ | ⟨-, -, rfl⟩ <;> simp
  | bithighPoll => rcases execBithighPoll_cases h with ⟨-, rfl⟩ | ⟨-, -, rfl⟩ | ⟨-, -, rfl⟩ <;> simp
  | pulsePoll => rcases execPulsePoll_cases h with ⟨-, rfl⟩ | ⟨-, -, rfl⟩ | ⟨-, -, rfl⟩ <;> simp
  | cmdStart => rcases execCmdStart_cases h with ⟨-, rfl⟩ | ⟨-, rfl⟩ <;> simp
  | pack n b =>
    obtain ⟨-, rfl⟩ := execPack_cases h
    exact .inl rfl
  | idleWait | startDrive | releaseHigh | releaseFloat | completeHold | failedHold | hostRd _ | bitdec _
  | chksum _ _ _ _ _ =>
    cases h
    exact .inl rfl

theorem TicksInRange.after_exec {i : Instr} {s t : State} (hs : TicksInRange s) (h : exec i s = .next t) :
    TicksInRange t := by
  unfold TicksInRange
  rw [exec_params h]
  rcases exec_ticks_cases h with ht | ht <;> rw [ht]
  · exact hs
  · exact Nat.zero_le _

/-- A tick and a step with `rst` asserted wrap the count; the other agents leave it alone. -/
theorem TicksInRange.after_takeStep {m : Move} {s t : State} (hs : TicksInRange s) (h : takeStep m s = .next t) :
    TicksInRange t := by
  rcases takeStep_next_cases h with ⟨-, rfl⟩ | ⟨-, rfl⟩ | ⟨v, -, rfl⟩ | ⟨-, rfl⟩ | ⟨a, v, -, -, rfl⟩ |
    ⟨c, i, -, -, he, -⟩
  · exact Params.wrap_le_tickMax s.params _
  · exact Params.wrap_le_tickMax s.params _
  · exact hs
  · exact hs
  · exact hs
  · exact hs.after_exec he

theorem TicksInRange.after_step {s t : State} (hs : TicksInRange s) (h : step s = .next t) : TicksInRange t := by
  have htaken : TicksInRange (takeMove s) := by simpa [TicksInRange] using hs
  exact htaken.after_takeStep h

/-- Settles O53: reset counts from 0, every step keeps the range, and `Reachable` starts from every reading in it. -/
theorem readingsStayBelowTheCeiling : Obligations.ReadingsStayBelowTheCeiling := by
  unfold Obligations.ReadingsStayBelowTheCeiling
  refine ⟨Nat.zero_le _, fun _ _ => TicksInRange.after_step, fun s hs => ?_⟩
  exact hs.of_invariant (fun _ _ _ _ _ _ he => he) (fun _ _ => TicksInRange.after_step)

end Sys2Proof.Machine

/-! ### The decoder and the encoder are inverse to each other (spec/30_encoding.md R63, R64, R70, R71)

Place by place: which words decode, and that the encoder lays out what the decoder takes apart. PACK's positions of 40 or more
have no meaning and CMD_START's word has ignored bits; everywhere else the two functions invert each other exactly. -/

namespace Sys2Proof.Machine

/-! ### Sequencer words -/

/-- On the sequencer's words the decoder is exactly the inverse of the encoder. -/
theorem decodeSeq_eq_ok_iff {w : BitVec 6} {i : Instr} : decodeSeq w = .ok i ↔ encode i = .seq w := by
  constructor
  · intro h
    unfold decodeSeq at h
    split at h <;> cases h <;> exact congrArg Code.seq (BitVec.eq_of_toNat_eq ‹w.toNat = _›.symm)
  · intro h
    cases i <;> cases h <;> rfl

theorem legalWord_of_encode {i : Instr} {w : BitVec 6} (h : encode i = .seq w) : LegalWord w := by
  cases i <;> cases h <;> decide

/-- R71: the 52 other words are reserved. -/
theorem decodeSeq_of_not_legalWord {w : BitVec 6} (h : ¬ LegalWord w) : decodeSeq w = .error .reservedSeq := by
  cases hd : decodeSeq w with
  | ok i => exact absurd (legalWord_of_encode (decodeSeq_eq_ok_iff.1 hd)) h
  | error e =>
    rcases decode_error_cases (c := .seq w) hd with ⟨-, -, rfl⟩ | ⟨_, _, hc, -⟩ | ⟨_, hc, -⟩
    · rfl
    · cases hc
    · cases hc

theorem seqPhase_seqWord (p : BitVec 4) (q : BitVec 2) : seqPhase (seqWord p q) = p := BitVec.extractLsb'_append_eq_left

theorem seqSub_seqWord (p : BitVec 4) (q : BitVec 2) : seqSub (seqWord p q) = q := BitVec.extractLsb'_append_eq_right

/-! ### Host and function words -/

/-- R64: only a write to `CTRL` with bit 0 set is a command, whatever its other bits. -/
theorem decodeHostWrite_eq_ok_iff {a : BitVec 4} {v : Byte} {i : Instr} :
    decodeHostWrite a v = .ok i ↔ (a = 0x0#4 ∧ v.getLsbD 0 = true) ∧ i = .cmdStart := by
  unfold decodeHostWrite
  split
  next h => simp only [Except.ok.injEq, h, and_self, true_and, eq_comm]
  next h => simp only [reduceCtorEq, h, false_and]

theorem decodeHostWrite_of_no_command {a : BitVec 4} {v : Byte} (h : ¬ (a = 0x0#4 ∧ v.getLsbD 0 = true)) :
    decodeHostWrite a v = .error .notACommand := if_neg h

theorem decodePack_append {n : BitVec 6} (hn : n.toNat < 40) (b : Bool) :
    decodePack (n ++ BitVec.ofBool b) = .ok (.pack n b) := by
  have hpos : (n ++ BitVec.ofBool b).extractLsb' 1 6 = n := BitVec.extractLsb'_append_eq_left
  have hbit : (n ++ BitVec.ofBool b).getLsbD 0 = b := by
    rw [BitVec.getLsbD_append, if_pos Nat.one_pos, BitVec.getLsbD_ofBool, decide_eq_true rfl, Bool.true_and]
  rw [decodePack, hpos, hbit, if_pos hn]

theorem encode_of_decodePack {w : BitVec 7} {i : Instr} (h : decodePack w = .ok i) : encode i = .pack w := by
  have hbit : BitVec.ofBool (w.getLsbD 0) = w.extractLsb' 0 1 := by
    rw [← BitVec.setWidth_one, BitVec.setWidth_eq_extractLsb' (by decide)]
  unfold decodePack at h
  split at h <;> cases h
  rw [encode, hbit]
  exact congrArg Code.pack BitVec.extractLsb'_append_extractLsb'

/-- Each field of the word is its byte, bit by bit. -/
theorem decodeChksum_append (h g t u c : Byte) : decodeChksum (h ++ g ++ t ++ u ++ c) = .chksum h g t u c := by
  rw [decodeChksum]
  congr <;> ext k hk
  all_goals
    simp only [BitVec.getElem_extractLsb', BitVec.getLsbD_append]
    simp +arith [hk, BitVec.getLsbD_eq_getElem]

/-- The five bytes are adjacent fields that cover the word. -/
theorem encode_decodeChksum (w : BitVec 40) : encode (decodeChksum w) = .chksum w := by
  have h4 : w.extractLsb' 32 8 ++ w.extractLsb' 24 8 = w.extractLsb' 24 16 :=
    BitVec.extractLsb'_append_extractLsb'_eq_extractLsb' rfl
  have h3 : w.extractLsb' 24 16 ++ w.extractLsb' 16 8 = w.extractLsb' 16 24 :=
    BitVec.extractLsb'_append_extractLsb'_eq_extractLsb' rfl
  have h2 : w.extractLsb' 16 24 ++ w.extractLsb' 8 8 = w.extractLsb' 8 32 :=
    BitVec.extractLsb'_append_extractLsb'_eq_extractLsb' rfl
  rw [decodeChksum, encode, h4, h3, h2]
  exact congrArg Code.chksum BitVec.extractLsb'_append_extractLsb'

/-! ### Reserved values -/

theorem reservedFault_of_not_positionLegal {s : State} (h : ¬ PositionLegal s) :
    reservedFault s = some .reservedSeq := by
  rw [reservedFault, decodeSeq_of_not_legalWord h]

theorem reservedFault_of_count {s : State} (hp : PositionLegal s) (hn : 40 ≤ s.n.toNat) :
    reservedFault s = some .reservedBitCount := by
  obtain ⟨i, hi⟩ := decodeSeq_of_positionLegal hp
  simp only [reservedFault, hi, if_neg (Nat.not_lt.2 hn)]

/-- A reserved value stops every scheduled move but `rst`. -/
theorem step_of_reservedFault {s : State} {m : Move} {rest : List Move} {f : Fault} (hm : s.moves = m :: rest)
    (hrst : m ≠ .rst) (hf : reservedFault s = some f) : step s = .fault f := by
  have hf' : reservedFault { s with moves := rest } = some f := hf
  rw [step_of_cons hm, takeStep, if_neg hrst, hf']

/-! ### The encoding obligations -/

/-- Settles O3: by cases on the instruction; only PACK's and CHKSUM's words are put together from fields. -/
theorem decodeOfEncodeIsTheInstruction : Obligations.DecodeOfEncodeIsTheInstruction := by
  unfold Obligations.DecodeOfEncodeIsTheInstruction
  intro i hi
  cases i with
  | pack n b => exact decodePack_append (of_decide_eq_true hi) b
  | chksum h g t u c => exact congrArg Except.ok (decodeChksum_append h g t u c)
  | idleWait | startDrive | startHold | releaseHigh | releaseFloat | releasePoll | ackhighPoll | acklowPoll
  | bithighPoll | pulsePoll | completeHold | failedHold | cmdStart | hostRd _ | bitdec _ => rfl

/-- Settles O4: by cases on the place; a host write alone can differ from its instruction's encoding. -/
theorem encodeOfDecodeIsTheWord : Obligations.EncodeOfDecodeIsTheWord := by
  unfold Obligations.EncodeOfDecodeIsTheWord
  intro c i h
  refine ⟨wellFormed_of_decode h, ?_⟩
  cases c with
  | seq w => exact .inl (decodeSeq_eq_ok_iff.1 h)
  | hostWrite a v =>
    obtain ⟨⟨rfl, hv⟩, hi⟩ := decodeHostWrite_eq_ok_iff.1 h
    exact .inr ⟨hi, v, rfl, hv⟩
  | pack w => exact .inl (encode_of_decodePack h)
  | chksum w =>
    cases h
    exact .inl (encode_decodeChksum w)
  | hostRead _ | bitdec _ =>
    cases h
    exact .inl rfl

/-- Settles O23: the schedule plays no part in which value is reserved. -/
theorem reservedStatesHaveNoStepButReset : Obligations.ReservedStatesHaveNoStepButReset := by
  unfold Obligations.ReservedStatesHaveNoStepButReset
  intro s m rest hm hrst
  constructor
  · exact fun hp => step_of_reservedFault hm hrst (reservedFault_of_not_positionLegal hp)
  · exact fun hp hn => step_of_reservedFault hm hrst (reservedFault_of_count hp hn)

/-- Settles O1: the op map's rows by evaluation, the reserved words and the two fields by their lemmas. -/
theorem sequencerWordsDecodeAsTheOpMap : Obligations.SequencerWordsDecodeAsTheOpMap := by
  unfold Obligations.SequencerWordsDecodeAsTheOpMap
  refine ⟨rfl, rfl, rfl, rfl, rfl, rfl, rfl, rfl, rfl, rfl, rfl, rfl, fun w => decodeSeq_of_not_legalWord, fun s => ?_⟩
  exact ⟨seqPhase_seqWord s.phase s.sub, seqSub_seqWord s.phase s.sub⟩

/-- Settles O2: host writes by the two cases of R64, the sample words by evaluation. -/
theorem hostAndFunctionWordsDecode : Obligations.HostAndFunctionWordsDecode := by
  unfold Obligations.HostAndFunctionWordsDecode
  refine ⟨?_, ?_, fun _ => rfl, fun _ => rfl, rfl, rfl, rfl, rfl⟩
  · exact fun a v ha hv => decodeHostWrite_eq_ok_iff.2 ⟨⟨ha, hv⟩, rfl⟩
  · intro a v h
    refine decodeHostWrite_of_no_command fun ⟨ha, hv⟩ => ?_
    rcases h with ha' | hv'
    · exact ha' ha
    · exact Bool.false_ne_true (hv'.symm.trans hv)

end Sys2Proof.Machine

/-! ### The host's operations (spec/40_host_commands.md)

What CMD_START and a host read do in every state, and what an attempt has left when it ends. -/

namespace Sys2Proof.Machine

/-! ### CMD_START -/

/-- `BUSY` as R18 says it. -/
theorem busy_eq_decide (s : State) : busy s = decide (s.phase ≠ 0#4 ∧ s.phase ≠ 7#4 ∧ s.phase ≠ 8#4) := by
  rw [busy, Bool.decide_and, Bool.decide_and, Bool.and_assoc]

theorem busy_eq_false_iff {s : State} : busy s = false ↔ s.phase = 0#4 ∨ s.phase = 7#4 ∨ s.phase = 8#4 := by
  simp only [busy_eq_decide, decide_eq_false_iff_not, not_and_or, ne_eq, not_not]

theorem memRead_status (s : State) : memRead s 0x1#4 = statusByte s := rfl

theorem statusByte_beginAttempt (s : State) : statusByte (beginAttempt s) = 0x01#8 := by
  simp [statusByte, chkOk, err, done, busy, Stage.code]

/-- Settles O16: the three resting phases are those in which `BUSY` is 0. -/
theorem cmdStartBeginsOrIsIgnored : Obligations.CmdStartBeginsOrIsIgnored := by
  unfold Obligations.CmdStartBeginsOrIsIgnored
  refine fun s => ⟨fun hrest => ?_, fun h0 h7 h8 => ?_, fun v hv => decodeHostWrite_eq_ok_iff.2 ⟨⟨rfl, hv⟩, rfl⟩⟩
  · exact ⟨beginAttempt s, execCmdStart_of_not_busy (busy_eq_false_iff.2 hrest), statusByte_beginAttempt s, rfl⟩
  · have hbusy : busy s = true := by rw [busy_eq_decide]; exact decide_eq_true ⟨h0, h7, h8⟩
    exact execCmdStart_of_busy hbusy

/-- Settles O38: what the two states differ in is what the start of an attempt writes. -/
theorem nothingIsCarriedIntoTheNextAttempt : Obligations.NothingIsCarriedIntoTheNextAttempt := by
  unfold Obligations.NothingIsCarriedIntoTheNextAttempt
  intro s u hs hu hsu
  have hbegin : beginAttempt s = beginAttempt u := by rw [hsu]; rfl
  calc exec .cmdStart s
    _ = .next (beginAttempt s) := execCmdStart_of_not_busy hs
    _ = .next (beginAttempt u) := by rw [hbegin]
    _ = exec .cmdStart u := (execCmdStart_of_not_busy hu).symm

/-! ### The host read -/

/-- Settles O17: address by address, each the window's own entry; `BUSY` alone is written another way in R18. -/
theorem hostReadReturnsTheWindowByte : Obligations.HostReadReturnsTheWindowByte := by
  unfold Obligations.HostReadReturnsTheWindowByte
  intro a s
  refine congrArg (fun b => Host.Outcome.next (giveAnswer (.byte b) s)) ?_
  rw [← busy_eq_decide]
  fin_cases a <;> rfl

/-! ### Host accesses while an attempt runs -/

/-- A host write that completes changes nothing or is CMD_START. -/
theorem takeStep_hostWrite_cases {s t : State} {a : BitVec 4} {v : Byte} (h : takeStep (.hostWrite a v) s = .next t) :
    t = s ∨ exec .cmdStart s = .next t := by
  rcases takeStep_next_cases h with ⟨hm, -⟩ | ⟨hm, -⟩ | ⟨_, hm, -⟩ | ⟨hm, -⟩ | ⟨_, _, -, -, ht⟩ | ⟨c, i, hf, hd, he, -⟩
  · cases hm
  · cases hm
  · cases hm
  · cases hm
  · exact .inl ht
  · cases hf
    obtain ⟨-, rfl⟩ := decodeHostWrite_eq_ok_iff.1 hd
    exact .inr he

/-- A host read that completes hands out the window byte. -/
theorem eq_of_takeStep_hostRead {s t : State} {a : BitVec 4} (h : takeStep (.hostRead a) s = .next t) :
    t = giveAnswer (.byte (memRead s a)) s := by
  rcases takeStep_next_cases h with ⟨hm, -⟩ | ⟨hm, -⟩ | ⟨_, hm, -⟩ | ⟨hm, -⟩ | ⟨_, _, hm, -⟩ | ⟨c, i, hf, hd, he, -⟩
  · cases hm
  · cases hm
  · cases hm
  · cases hm
  · cases hm
  · cases hf
    cases hd
    cases he
    rfl

/-- Settles O39: the one host write that could do anything, CMD_START, is ignored while `BUSY` is 1. -/
theorem hostCannotDisturbARunningAttempt : Obligations.HostCannotDisturbARunningAttempt := by
  unfold Obligations.HostCannotDisturbARunningAttempt
  refine fun s t a v hbusy => ⟨fun h => ?_, eq_of_takeStep_hostRead⟩
  rcases takeStep_hostWrite_cases h with ht | he
  · exact ht
  · have hsame : exec .cmdStart s = .next s := execCmdStart_of_busy hbusy
    cases hsame.symm.trans he
    rfl

/-! ### The ops of the resting phases, and the end of an attempt -/

/-- Settles O7: the meaning of each of the three is to answer the state it was given. -/
theorem restingOpsChangeNothing : Obligations.RestingOpsChangeNothing := fun _ => ⟨rfl, rfl, rfl⟩

/-- Settles O42: the invariants give the phase of either outcome, and no resting phase drives the line. -/
theorem attemptEndsInFrameOrTimeout : Obligations.AttemptEndsInFrameOrTimeout := by
  unfold Obligations.AttemptEndsInFrameOrTimeout
  intro s h hdone
  cases ht : s.outTag with
  | none => simp [done, ht] at hdone
  | frame =>
    have hp : s.phase = 7#4 := h.tag.2.1.1 ht
    obtain ⟨hdir, hlvl, -⟩ := h.pinsReleased ⟨rfl, rfl⟩ (by simp [DrivingPosition, hp])
    exact ⟨.inl ⟨rfl, hp, by simp [err, ht], by simp [chkOk, ht]⟩, hdir, hlvl⟩
  | timeout =>
    have hp : s.phase = 8#4 := h.tag.2.2.1 ht
    obtain ⟨hdir, hlvl, -⟩ := h.pinsReleased ⟨rfl, rfl⟩ (by simp [DrivingPosition, hp])
    have hframe : s.frame = Frame.zero := h.frame.1 (by simp [hp])
    have hn : s.n = 0#6 := h.count.1 (by simp [hp]) (by simp [hp]) (by simp [hp])
    exact ⟨.inr ⟨rfl, hp, by simp [err, ht], by simp [chkOk, ht], hframe, hn⟩, hdir, hlvl⟩

end Sys2Proof.Machine

/-! ### Runs of a whole attempt

An attempt is a chain of waits: some polls find one level and change nothing, the next finds the other level and the op of
the position moves on (`runsTo_poll`). What any run keeps, whatever its moves, is said once (`runMoves_invariant`), so a
link of the chain says only where the sequencer stands, what the timer shows and what was recorded. -/

namespace Sys2Proof.Machine

/-! ### What any run keeps -/

theorem runMoves_cons_of_next {m : Move} {ms : List Move} {s u : State} (h : takeStep m s = .next u) :
    runMoves (m :: ms) s = runMoves ms u := by
  simp only [runMoves, h]

/-- What every move of a run keeps, the run keeps. -/
theorem runMoves_invariant {P : State → Prop} (hstep : ∀ m s t, P s → takeStep m s = .next t → P t) {ms : List Move}
    {s t : State} (hs : P s) (h : runMoves ms s = .next t) : P t := by
  induction ms generalizing s with
  | nil =>
    cases h
    exact hs
  | cons m ms ih =>
    cases hm : takeStep m s with
    | next u => exact ih (hstep m s u hs hm) ((runMoves_cons_of_next hm).symm.trans h)
    | fault f => simp [runMoves, hm] at h
    | refused r => simp [runMoves, hm] at h

theorem Inv.after_runMoves {ms : List Move} {s t : State} (hs : Inv s) (h : runMoves ms s = .next t) : Inv t :=
  runMoves_invariant (fun _ _ _ hu ht => hu.after_takeStep ht) hs h

theorem runMoves_params {ms : List Move} {s t : State} (h : runMoves ms s = .next t) : t.params = s.params :=
  runMoves_invariant (P := fun u => u.params = s.params) (fun _ _ _ hu ht => (takeStep_params ht).trans hu) rfl h

theorem runMoves_moves {ms : List Move} {s t : State} (h : runMoves ms s = .next t) : t.moves = s.moves :=
  runMoves_invariant (P := fun u => u.moves = s.moves) (fun _ _ _ hu ht => (takeStep_moves ht).trans hu) rfl h

/-- No step but `rst` touches the line, unless it is the move of the LINE agent. -/
theorem takeStep_line {m : Move} {s t : State} (hm : m ≠ .rst) (h : takeStep m s = .next t) :
    t.line = m.lineAfter s.line := by
  rcases takeStep_next_cases h with ⟨rfl, -⟩ | ⟨rfl, rfl⟩ | ⟨v, rfl, rfl⟩ | ⟨rfl, rfl⟩ | ⟨a, v, rfl, -, rfl⟩ |
    ⟨c, i, hf, -, he, -⟩
  · contradiction
  · rfl
  · rfl
  · rfl
  · rfl
  · obtain ⟨-, -, -, hline, -⟩ := pinLatchesHaveThreeWriters i s t he
    rw [hline]
    cases m <;> cases hf <;> rfl

theorem runMoves_line {ms : List Move} {s t : State} (hms : .rst ∉ ms) (h : runMoves ms s = .next t) :
    t.line = Gap.lineAfter s.line ms := by
  induction ms generalizing s with
  | nil =>
    cases h
    rfl
  | cons m ms ih =>
    rw [List.mem_cons, not_or] at hms
    cases hm : takeStep m s with
    | next u =>
      rw [ih hms.2 ((runMoves_cons_of_next hm).symm.trans h), takeStep_line (Ne.symm hms.1) hm]
      rfl
    | fault f => simp [runMoves, hm] at h
    | refused r => simp [runMoves, hm] at h

/-! ### Core steps after their gaps -/

theorem Gap.rst_not_mem {g : Gap} (h : g.ok) : .rst ∉ g := fun hm => by simpa [Move.betweenCoreSteps] using h _ hm

theorem rst_not_mem_coreSteps {gs : List Gap} (h : ∀ g ∈ gs, g.ok) : .rst ∉ coreSteps gs := by
  induction gs with
  | nil => simp [coreSteps]
  | cons g gs ih =>
    rw [List.forall_mem_cons] at h
    simp [coreSteps, Gap.rst_not_mem h.1, ih h.2]

theorem lineAfter_append (l : Level) (g g' : Gap) :
    Gap.lineAfter l (g ++ g') = Gap.lineAfter (Gap.lineAfter l g) g' := List.foldl_append

theorem lineAfter_coreSteps (l : Level) (gs : List Gap) :
    Gap.lineAfter l (coreSteps gs) = Gap.lineAfter l gs.flatten := by
  induction gs generalizing l with
  | nil => rfl
  | cons g gs ih =>
    rw [coreSteps, List.flatten_cons, lineAfter_append, lineAfter_append, ← ih]
    rfl

/-- The core steps of these gaps, taken one after the other from `s`, end in `t`. -/
def RunsTo (gs : List Gap) (s t : State) : Prop := runMoves (coreSteps gs) s = .next t

theorem RunsTo.nil (s : State) : RunsTo [] s s := rfl

theorem RunsTo.trans {gs gs' : List Gap} {s t u : State} (h : RunsTo gs s t) (h' : RunsTo gs' t u) :
    RunsTo (gs ++ gs') s u := by
  rw [RunsTo, coreSteps_append, runMoves_append _ _ _ _ h]
  exact h'

theorem RunsTo.params {gs : List Gap} {s t : State} (h : RunsTo gs s t) : t.params = s.params := runMoves_params h

theorem RunsTo.line {gs : List Gap} {s t : State} (h : RunsTo gs s t) (hok : ∀ g ∈ gs, g.ok) :
    t.line = Gap.lineAfter s.line gs.flatten :=
  (runMoves_line (rst_not_mem_coreSteps hok) h).trans (lineAfter_coreSteps _ _)

/-- What the gaps before some core steps do to a state of a running attempt that those steps leave as it is. -/
structure AfterGaps (s : State) (gs : List Gap) (u : State) : Prop where
  env : EnvOnly s u
  line : u.line = Gap.lineAfter s.line gs.flatten
  dlyPending : u.dlyPending = (s.dlyPending && !decide (.delayDone ∈ gs.flatten))
  ticks : s.ticks < 2 ^ s.params.tickW → u.ticks = s.params.wrap (s.ticks + gapTicks gs)

theorem AfterGaps.nil (s : State) : AfterGaps s [] s :=
  ⟨.refl s, rfl, by simp, fun h => (Params.wrap_of_lt h).symm⟩

theorem AfterGaps.trans {s t u : State} {gs gs' : List Gap} (h : AfterGaps s gs t) (h' : AfterGaps t gs' u) :
    AfterGaps s (gs ++ gs') u := by
  refine ⟨h.env.trans h'.env, ?_, ?_, fun hlt => ?_⟩
  · rw [h'.line, h.line, List.flatten_append, lineAfter_append]
  · rw [h'.dlyPending, h.dlyPending, Bool.and_assoc]
    simp
  · have ht : t.ticks < 2 ^ t.params.tickW := by rw [h.ticks hlt, h.env.params]; exact Params.wrap_lt _ _
    rw [h'.ticks ht, h.ticks hlt, h.env.params, Params.wrap_add, Nat.add_assoc]
    simp [gapTicks]

/-- One gap of a running attempt. -/
theorem runMoves_gap_afterGaps {g : Gap} {s : State} (hr : reservedFault s = none) (hb : busy s = true) (hg : g.ok) :
    ∃ u, runMoves g s = .next u ∧ AfterGaps s [g] u := by
  obtain ⟨u, hu, henv, hline, hdly, hticks⟩ := runMoves_gap g s hr hb hg
  exact ⟨u, hu, henv, by simpa using hline, by simpa using hdly, by simpa [gapTicks] using hticks⟩

/-! ### What the polls of a wait find -/

/-- The levels the polls of a wait find: `k` times the one it waits on, then the awaited one. -/
def waitLevels (k : Nat) (wait awaited : Level) : List Level := List.replicate k wait ++ [awaited]

theorem lineAfter_mem_linesAt {pre gs : List Gap} (hpre : pre <+: gs) (hne : pre ≠ []) (l : Level) :
    Gap.lineAfter l pre.flatten ∈ linesAt l gs := by
  obtain ⟨rest, rfl⟩ := hpre
  obtain ⟨init, g, rfl⟩ := List.eq_nil_or_concat pre |>.resolve_left hne
  simp [linesAt_append, linesAt, lineAfter_append]

theorem countsAt_append (c : Nat) (gs gs' : List Gap) :
    countsAt c (gs ++ gs') = countsAt c gs ++ countsAt (c + gapTicks gs) gs' := by
  induction gs generalizing c with
  | nil => simp [countsAt, gapTicks]
  | cons g gs ih => simp [countsAt, gapTicks, ih, Nat.add_assoc]

theorem gapTicks_mem_countsAt {pre gs : List Gap} (hpre : pre <+: gs) (hne : pre ≠ []) :
    gapTicks pre ∈ countsAt 0 gs := by
  obtain ⟨rest, rfl⟩ := hpre
  obtain ⟨init, g, rfl⟩ := List.eq_nil_or_concat pre |>.resolve_left hne
  simp [countsAt_append, countsAt, gapTicks]

theorem linesAt_append_inj {l : Level} {gs gs' : List Gap} {ls ls' : List Level}
    (h : linesAt l (gs ++ gs') = ls ++ ls') (hlen : gs.length = ls.length) :
    linesAt l gs = ls ∧ linesAt (Gap.lineAfter l gs.flatten) gs' = ls' := by
  rw [linesAt_append] at h
  exact List.append_inj h (by rw [linesAt_length, hlen])

/-- Every poll of a wait but the last finds the level that makes it wait, the last finds the awaited one. -/
theorem levels_of_waitLevels {l wait awaited : Level} {gs : List Gap} {g : Gap}
    (h : linesAt l (gs ++ [g]) = waitLevels gs.length wait awaited) :
    (∀ x ∈ linesAt l gs, x = wait) ∧ Gap.lineAfter l (gs ++ [g]).flatten = awaited := by
  obtain ⟨hgs, hg⟩ := linesAt_append_inj h (by simp)
  refine ⟨fun x hx => List.eq_of_mem_replicate (hgs ▸ hx), ?_⟩
  simpa [linesAt, lineAfter_append] using hg

/-! ### A wait and the core step that ends it -/

section
variable {s : State} {p : BitVec 4} {q : BitVec 2} {i : Instr} (hat : s.isAt p q) (hn : s.n.toNat < 40)
  (hop : decodeSeq (seqWord p q) = .ok i ∧ p ≠ 0#4 ∧ p ≠ 7#4 ∧ p ≠ 8#4)
include hat hn hop

/-- One more gap and its core step, after core steps that left the state as it was. -/
theorem runsTo_next_gap {gs : List Gap} {g : Gap} {t : State} (hrun : RunsTo gs s t) (hgaps : AfterGaps s gs t)
    (hg : g.ok) : ∃ u, AfterGaps s (gs ++ [g]) u ∧ ∀ v, exec i u = .next v → RunsTo (gs ++ [g]) s v := by
  obtain ⟨hdec, hbusy⟩ := hop
  have hword : LegalWord (seqWord p q) := legalWord_of_encode (decodeSeq_eq_ok_iff.1 hdec)
  have hr : reservedFault s = none := reservedFault_of_legal (positionLegal_of_isAt hat hword) hn
  have hb : busy s = true := by rw [busy_eq_decide, hat.1]; exact decide_eq_true hbusy
  obtain ⟨u, hu, hgap⟩ := runMoves_gap_afterGaps (hgaps.env.reservedFault.trans hr) (hgaps.env.busy.trans hb) hg
  have hall : AfterGaps s (gs ++ [g]) u := hgaps.trans hgap
  refine ⟨u, hall, fun v hv => hrun.trans ?_⟩
  have hatu : u.isAt p q := ⟨hall.env.phase.trans hat.1, hall.env.sub.trans hat.2⟩
  have hcore : takeStep .core u = exec i u := takeStep_core_of_isAt hatu (by rw [hall.env.n]; exact hn) hdec hword
  rw [RunsTo, coreSteps, coreSteps, runMoves_append _ _ _ _ hu, runMoves_cons_of_next (hcore.trans hv), runMoves]

/-- One core step of a running attempt. -/
theorem runsTo_op {g : Gap} (hg : g.ok) : ∃ u, AfterGaps s [g] u ∧ ∀ v, exec i u = .next v → RunsTo [g] s v :=
  runsTo_next_gap hat hn hop (.nil s) (.nil s) hg

/-- Core steps that each leave the state as it is. Unlike `runMoves_waits` this asks nothing of the counter, which no
rule has reset yet when an attempt waits for its delay and for the sensor. -/
theorem runsTo_waits {gs : List Gap} (hok : ∀ g ∈ gs, g.ok)
    (hwait : ∀ pre, pre <+: gs → pre ≠ [] → ∀ u, AfterGaps s pre u → exec i u = .next u) :
    ∃ u, RunsTo gs s u ∧ AfterGaps s gs u := by
  induction gs using List.reverseRecOn with
  | nil => exact ⟨s, .nil s, .nil s⟩
  | append_singleton gs g ih =>
    obtain ⟨t, hrun, hgaps⟩ := ih (fun x hx => hok x (by simp [hx]))
      (fun pre hpre => hwait pre (hpre.trans ⟨[g], rfl⟩))
    obtain ⟨u, hu, hcore⟩ := runsTo_next_gap hat hn hop hrun hgaps (hok g (by simp))
    exact ⟨u, hcore u (hwait _ ⟨[], List.append_nil _⟩ (by simp) u hu), hu⟩

/-- A wait, up to the core step that ends it. -/
theorem runsTo_wait_then {gs : List Gap} {g : Gap} (hok : ∀ x ∈ gs ++ [g], x.ok)
    (hwait : ∀ pre, pre <+: gs → pre ≠ [] → ∀ u, AfterGaps s pre u → exec i u = .next u) :
    ∃ u, AfterGaps s (gs ++ [g]) u ∧ ∀ v, exec i u = .next v → RunsTo (gs ++ [g]) s v := by
  obtain ⟨t, hrun, hgaps⟩ := runsTo_waits hat hn hop (fun x hx => hok x (by simp [hx])) hwait
  exact runsTo_next_gap hat hn hop hrun hgaps (hok g (by simp))

/-- A wait for a level of the line: the op has to wait at the polls that do not find it. -/
theorem runsTo_poll {gs : List Gap} {g : Gap} {wait awaited : Level} (hok : ∀ x ∈ gs ++ [g], x.ok)
    (hl : linesAt s.line (gs ++ [g]) = waitLevels gs.length wait awaited)
    (hwait : ∀ u, EnvOnly s u → u.line = wait →
      (s.ticks = 0 → ∃ c ∈ countsAt 0 gs, u.ticks = s.params.wrap c) → exec i u = .next u) :
    ∃ u, AfterGaps s (gs ++ [g]) u ∧ u.line = awaited ∧ ∀ v, exec i u = .next v → RunsTo (gs ++ [g]) s v := by
  obtain ⟨hbefore, hlast⟩ := levels_of_waitLevels hl
  obtain ⟨u, hu, hrun⟩ := runsTo_wait_then hat hn hop hok fun pre hpre hne w hw => by
    refine hwait w hw.env (hbefore _ (hw.line ▸ lineAfter_mem_linesAt hpre hne _)) fun h0 => ?_
    refine ⟨gapTicks pre, gapTicks_mem_countsAt hpre hne, ?_⟩
    rw [hw.ticks (by rw [h0]; exact Nat.two_pow_pos _), h0, Nat.zero_add]
  exact ⟨u, hu, hu.line.trans hlast, hrun⟩

/-- A budgeted wait whose timer was just reset: the polls that do not find the level read no more than the budget. -/
theorem runsTo_budgetedPoll {gs : List Gap} {g : Gap} {wait awaited : Level} {budget : Nat} (ht : s.ticks = 0)
    (hok : ∀ x ∈ gs ++ [g], x.ok) (hb : WithinBudget s.params budget gs)
    (hl : linesAt s.line (gs ++ [g]) = waitLevels gs.length wait awaited)
    (hwait : ∀ u, EnvOnly s u → u.line = wait → u.ticks ≤ budget → exec i u = .next u) :
    ∃ u, AfterGaps s (gs ++ [g]) u ∧ u.line = awaited ∧ ∀ v, exec i u = .next v → RunsTo (gs ++ [g]) s v := by
  refine runsTo_poll hat hn hop hok hl fun u hu hline hcount => ?_
  obtain ⟨c, hc, hread⟩ := hcount ht
  exact hwait u hu hline (hread ▸ hb c hc)

end

end Sys2Proof.Machine

/-! ### What the polls of the handshake and the bit stream answer

The branches of a running attempt: the level found, the wait within the budget, and the bit stored. -/

namespace Sys2Proof.Machine

theorem execAckhighPoll_of_high {s : State} (h : s.line = .high) :
    execAckhighPoll s = .next (timerReset (changePhase Phase.acklow s)) := by
  simp [execAckhighPoll, poll_hit h]

theorem execAckhighPoll_within {s : State} (h : s.line = .low) (ht : s.ticks ≤ s.params.tAck) :
    execAckhighPoll s = .next s := by
  simp [execAckhighPoll, poll_wait (awaited := .high) (s := s) (by simp [h]) ht]

theorem execAcklowPoll_of_low {s : State} (h : s.line = .low) :
    execAcklowPoll s = .next (timerReset (changePhase Phase.bithigh { s with n := 0#6 })) := by
  simp [execAcklowPoll, poll_hit h]

theorem execAcklowPoll_within {s : State} (h : s.line = .high) (ht : s.ticks ≤ s.params.tAck) :
    execAcklowPoll s = .next s := by
  simp [execAcklowPoll, poll_wait (awaited := .low) (s := s) (by simp [h]) ht]

theorem execBithighPoll_of_high {s : State} (h : s.line = .high) :
    execBithighPoll s = .next (timerReset (changePhase Phase.pulse s)) := by
  simp [execBithighPoll, poll_hit h]

theorem execBithighPoll_within {s : State} (h : s.line = .low) (ht : s.ticks ≤ s.params.tBitWait) :
    execBithighPoll s = .next s := by
  simp [execBithighPoll, poll_wait (awaited := .high) (s := s) (by simp [h]) ht]

theorem execPulsePoll_of_low {s : State} (h : s.line = .low) (hn : s.n.toNat < 39) :
    execPulsePoll s = .next (timerReset (changePhase Phase.bithigh { storeBit s with n := s.n + 1#6 })) := by
  simp [execPulsePoll, readLevel, h, hn]

theorem execPulsePoll_of_low_last {s : State} (h : s.line = .low) (hn : s.n.toNat = 39) :
    execPulsePoll s = .next (changePhase Phase.complete (setOutcome .frame .ackHigh (storeBit s))) := by
  simp [execPulsePoll, readLevel, h, hn]

/-! ### The bit stream -/

/-- The bit a pulse decodes as (spec/42_bitstream.md R107). -/
def Pulse.bit (p : Pulse) (c : Params) : Bool := decide (c.tBit < p.width % 2 ^ c.tickW)

theorem Pulse.gaps_eq (p : Pulse) : p.gaps = (p.lows ++ [p.rise]) ++ (p.highs ++ [p.fall]) := by
  simp [Pulse.gaps]

theorem Pulse.levels_eq (p : Pulse) :
    p.levels = waitLevels p.lows.length .low .high ++ waitLevels p.highs.length .high .low := by
  simp [Pulse.levels, waitLevels]

theorem Pulse.length_gaps (p : Pulse) : p.gaps.length = p.levels.length := by
  simp [Pulse.gaps_eq, Pulse.levels_eq, waitLevels]

/-- A poll of MeasurePulse at which the pulse has fallen and its width stands on the timer, with nothing recorded since
`s`. -/
structure Measured (s : State) (p : Pulse) (u : State) : Prop where
  line : u.line = .low
  ticks : u.ticks = s.params.wrap p.width
  sub : u.sub = 0#2
  n : u.n = s.n
  frame : u.frame = s.frame
  params : u.params = s.params

theorem Measured.storeBit_frame {s u : State} {p : Pulse} (h : Measured s p u) :
    (storeBit u).frame = pack s.frame s.n.toNat (p.bit s.params) := by
  rw [Machine.storeBit_frame, h.frame, h.n, h.params, h.ticks]
  rfl

/-- AwaitBitHigh within its budget (spec/42_bitstream.md R102). -/
theorem runsTo_pulse {s : State} {gs : List Gap} {g : Gap} (hat : s.isAt 5#4 0#2) (hn : s.n.toNat < 40)
    (ht : s.ticks = 0) (hok : ∀ x ∈ gs ++ [g], x.ok) (hb : WithinBudget s.params s.params.tBitWait gs)
    (hl : linesAt s.line (gs ++ [g]) = waitLevels gs.length .low .high) :
    ∃ t, RunsTo (gs ++ [g]) s t ∧ t.isAt 6#4 0#2 ∧ t.ticks = 0 ∧ t.n = s.n ∧ t.frame = s.frame := by
  obtain ⟨u, hu, hhigh, hrun⟩ := runsTo_budgetedPoll (i := .bithighPoll) hat hn ⟨rfl, by decide⟩ ht hok hb hl
    fun w hw hlow hle => execBithighPoll_within hlow (hw.params ▸ hle)
  exact ⟨_, hrun _ (execBithighPoll_of_high hhigh), ⟨rfl, hu.env.sub.trans hat.2⟩, rfl, hu.env.n, hu.env.frame⟩

/-- The poll that finds the pulse fallen reads the ticks since the poll that found it risen. -/
theorem Pulse.measured {s : State} (p : Pulse) (hat : s.isAt 5#4 0#2) (hn : s.n.toNat < 40) (ht : s.ticks = 0)
    (hok : ∀ g ∈ p.gaps, g.ok) (hb : WithinBudget s.params s.params.tBitWait p.lows)
    (hl : linesAt s.line p.gaps = p.levels) :
    ∃ u, Measured s p u ∧ ∀ t, exec .pulsePoll u = .next t → RunsTo p.gaps s t := by
  rw [p.gaps_eq, List.forall_mem_append] at hok
  rw [p.gaps_eq, p.levels_eq] at hl
  obtain ⟨hokrise, hokfall⟩ := hok
  obtain ⟨hrise, hfall⟩ := linesAt_append_inj hl (by simp [waitLevels])
  obtain ⟨r, hrunr, hatr, htr, hnr, hfr⟩ := runsTo_pulse hat hn ht hokrise hb hrise
  obtain ⟨u, hu, hlow, hrun⟩ := runsTo_poll (i := .pulsePoll) hatr (hnr ▸ hn) ⟨rfl, by decide⟩ hokfall
    (hrunr.line hokrise ▸ hfall) fun w _ hhigh _ => execPulsePoll_of_high hhigh
  refine ⟨u, ⟨hlow, ?_, hu.env.sub.trans hatr.2, hu.env.n.trans hnr, hu.env.frame.trans hfr,
    hu.env.params.trans hrunr.params⟩, fun t h => p.gaps_eq ▸ hrunr.trans (hrun t h)⟩
  rw [hu.ticks (htr ▸ Nat.two_pow_pos _), htr, Nat.zero_add, hrunr.params]
  rfl

section
variable {s : State} (p : Pulse) (hat : s.isAt 5#4 0#2) (ht : s.ticks = 0) (hok : ∀ g ∈ p.gaps, g.ok)
  (hb : WithinBudget s.params s.params.tBitWait p.lows) (hl : linesAt s.line p.gaps = p.levels)
include hat ht hok hb hl

/-- A bit that is not the last is stored, and the next one awaited. -/
theorem Pulse.runsTo_next (hn : s.n.toNat < 39) :
    ∃ t, RunsTo p.gaps s t ∧ t.isAt 5#4 0#2 ∧ t.ticks = 0 ∧ t.n.toNat = s.n.toNat + 1 ∧
      t.frame = pack s.frame s.n.toNat (p.bit s.params) := by
  obtain ⟨u, hu, hrun⟩ := p.measured hat (by omega) ht hok hb hl
  refine ⟨_, hrun _ (execPulsePoll_of_low hu.line (hu.n ▸ hn)), ⟨rfl, hu.sub⟩, rfl, ?_, hu.storeBit_frame⟩
  have hsucc : (s.n + 1#6).toNat = s.n.toNat + 1 := by
    rw [BitVec.toNat_add, BitVec.toNat_ofNat]
    omega
  simpa [hu.n] using hsucc

/-- The last bit completes the frame. -/
theorem Pulse.runsTo_complete (hn : s.n.toNat = 39) :
    ∃ t, RunsTo p.gaps s t ∧ t.isAt 7#4 0#2 ∧ t.n = s.n ∧ t.outTag = .frame ∧ t.outStage = .ackHigh ∧
      t.frame = pack s.frame s.n.toNat (p.bit s.params) := by
  obtain ⟨u, hu, hrun⟩ := p.measured hat (by omega) ht hok hb hl
  exact ⟨_, hrun _ (execPulsePoll_of_low_last hu.line (hu.n ▸ hn)), ⟨rfl, hu.sub⟩, hu.n, rfl, rfl, hu.storeBit_frame⟩

end

/-- The pulses that are still missing complete the frame: each leaves the bits before it and assigns its own. -/
theorem runsTo_stream (ps : List Pulse) (hne : ps ≠ []) {s : State} (hat : s.isAt 5#4 0#2)
    (hn : s.n.toNat + ps.length = 40) (ht : s.ticks = 0) (hok : ∀ g ∈ streamGaps ps, g.ok)
    (hb : ∀ p ∈ ps, WithinBudget s.params s.params.tBitWait p.lows)
    (hl : linesAt s.line (streamGaps ps) = streamLevels ps) :
    ∃ t, RunsTo (streamGaps ps) s t ∧ t.isAt 7#4 0#2 ∧ t.n = 39#6 ∧ t.outTag = .frame ∧ t.outStage = .ackHigh ∧
      (∀ j < s.n.toNat, t.frame.streamBit j = s.frame.streamBit j) ∧
      ∀ (j : Nat) (hj : j < ps.length), t.frame.streamBit (s.n.toNat + j) = ps[j].bit s.params := by
  induction ps generalizing s with
  | nil => contradiction
  | cons p ps ih =>
    have hgaps : streamGaps (p :: ps) = p.gaps ++ streamGaps ps := rfl
    rw [hgaps] at hok hl ⊢
    obtain ⟨hlp, hlps⟩ := linesAt_append_inj (ls := p.levels) (ls' := streamLevels ps) hl p.length_gaps
    have hokp : ∀ g ∈ p.gaps, g.ok := fun g hg => hok g (List.mem_append_left _ hg)
    have hbp : WithinBudget s.params s.params.tBitWait p.lows := hb p (by simp)
    rw [List.length_cons] at hn
    have hkept : ∀ j < s.n.toNat, (pack s.frame s.n.toNat (p.bit s.params)).streamBit j = s.frame.streamBit j :=
      fun j hj => by rw [Frame.streamBit_pack _ _ (by omega), if_neg (by omega)]
    have hown : (pack s.frame s.n.toNat (p.bit s.params)).streamBit s.n.toNat = p.bit s.params := by
      rw [Frame.streamBit_pack _ _ (by omega), if_pos rfl]
    by_cases hps : ps = []
    · subst hps
      have hlast : s.n.toNat = 39 := by simpa using hn
      obtain ⟨t, hrun, hatt, hnt, htag, hstage, hframe⟩ := p.runsTo_complete hat ht hokp hbp hlp hlast
      rw [← hframe] at hkept hown
      have h39 : t.n = 39#6 := hnt.trans (BitVec.eq_of_toNat_eq hlast)
      refine ⟨t, hrun.trans (.nil t), hatt, h39, htag, hstage, hkept, fun j hj => ?_⟩
      obtain rfl : j = 0 := by simpa using hj
      exact hown
    · have hpos : 0 < ps.length := List.length_pos_iff.2 hps
      obtain ⟨u, hrun, hatu, htu, hnu, hframe⟩ := p.runsTo_next hat ht hokp hbp hlp (by omega)
      rw [← hframe] at hkept hown
      have hparams : u.params = s.params := hrun.params
      obtain ⟨t, hrun', hatt, hnt, htag, hstage, hold, hnew⟩ := ih hps hatu (by omega) htu
        (fun g hg => hok g (List.mem_append_right _ hg)) (fun p' hp' => hparams.symm ▸ hb p' (by simp [hp']))
        (hrun.line hokp ▸ hlps)
      refine ⟨t, hrun.trans hrun', hatt, hnt, htag, hstage, fun j hj => ?_, fun j hj => ?_⟩
      · rw [hold j (by omega), hkept j hj]
      · cases j with
        | zero => exact (hold _ (by omega)).trans hown
        | succ j =>
          have hposition : s.n.toNat + (j + 1) = u.n.toNat + j := by omega
          rw [hposition, hnew j (by simpa using hj), hparams, List.getElem_cons_succ]

/-! ### The handshake -/

theorem Handshake.opening_eq (h : Handshake) :
    h.opening = [h.drive] ++ ((h.holds ++ [h.held]) ++ ([h.high] ++ [h.float])) := by
  simp [Handshake.opening]

theorem Handshake.waits_eq (h : Handshake) :
    h.waits = (h.idles ++ [h.pull]) ++ ((h.lows ++ [h.rise]) ++ (h.highs ++ [h.fall])) := by
  simp [Handshake.waits]

theorem Handshake.levels_eq (h : Handshake) :
    h.levels = waitLevels h.idles.length .high .low ++
      (waitLevels h.lows.length .low .high ++ waitLevels h.highs.length .high .low) := by
  simp [Handshake.levels, waitLevels]

/-- START.DRIVE asks for the delay (spec/41_handshake.md R91). -/
theorem runsTo_hold {s : State} {g : Gap} (hat : s.isAt 1#4 0#2) (hn : s.n.toNat < 40) (hg : g.ok) :
    ∃ t, RunsTo [g] s t ∧ t.isAt 1#4 1#2 ∧ t.dlyPending = true ∧ t.n = s.n := by
  obtain ⟨u, hu, hrun⟩ := runsTo_op (i := .startDrive) hat hn ⟨rfl, by decide⟩ hg
  exact ⟨_, hrun _ rfl, ⟨hu.env.phase.trans hat.1, rfl⟩, rfl, hu.env.n⟩

/-- START.HOLD waits while the delay is pending (R92). -/
theorem runsTo_release {s : State} {gs : List Gap} {g : Gap} (hat : s.isAt 1#4 1#2) (hn : s.n.toNat < 40)
    (hpend : s.dlyPending = true) (hok : ∀ x ∈ gs ++ [g], x.ok) (hgs : ∀ x ∈ gs, .delayDone ∉ x) (hg : .delayDone ∈ g) :
    ∃ t, RunsTo (gs ++ [g]) s t ∧ t.isAt 2#4 0#2 ∧ t.n = s.n := by
  obtain ⟨u, hu, hrun⟩ := runsTo_wait_then (i := .startHold) hat hn ⟨rfl, by decide⟩ hok fun pre hpre _ w hw => by
    have hnone : .delayDone ∉ pre.flatten := fun hm => by
      obtain ⟨x, hx, hmx⟩ := List.mem_flatten.1 hm
      exact hgs x (hpre.subset hx) hmx
    exact execStartHold_of_pending (by rw [hw.dlyPending, hpend, decide_eq_false hnone]; rfl)
  have hdone : u.dlyPending = false := by simp [hu.dlyPending, hg]
  exact ⟨_, hrun _ (execStartHold_of_done hdone), ⟨rfl, rfl⟩, hu.env.n⟩

/-- RELEASE.HIGH and RELEASE.FLOAT take one step each (R93, R94). -/
theorem runsTo_floating {s : State} {g g' : Gap} (hat : s.isAt 2#4 0#2) (hn : s.n.toNat < 40) (hg : g.ok)
    (hg' : g'.ok) :
    ∃ t, RunsTo ([g] ++ [g']) s t ∧ t.isAt 2#4 2#2 ∧ t.n = s.n := by
  obtain ⟨u, hu, hrun⟩ := runsTo_op (i := .releaseHigh) hat hn ⟨rfl, by decide⟩ hg
  have hhigh : RunsTo [g] s (setSub 1#2 (setLevel .high u)) := hrun _ rfl
  obtain ⟨v, hv, hrun'⟩ := runsTo_op (s := setSub 1#2 (setLevel .high u)) (q := 1#2) (i := .releaseFloat)
    ⟨hu.env.phase.trans hat.1, rfl⟩ (hu.env.n.symm ▸ hn) ⟨rfl, by decide⟩ hg'
  exact ⟨_, hhigh.trans (hrun' _ rfl), ⟨hv.env.phase.trans (hu.env.phase.trans hat.1), rfl⟩, hv.env.n.trans hu.env.n⟩

/-- Start and the two ops of Release that drive the pin. -/
theorem Handshake.runsTo_floating (h : Handshake) {s : State} (hat : s.isAt 1#4 0#2) (hn : s.n.toNat < 40)
    (hok : ∀ g ∈ h.opening, g.ok) (hholds : ∀ g ∈ h.holds, .delayDone ∉ g) (hheld : .delayDone ∈ h.held) :
    ∃ t, RunsTo h.opening s t ∧ t.isAt 2#4 2#2 ∧ t.n = s.n := by
  rw [h.opening_eq] at hok ⊢
  rw [List.forall_mem_append, List.forall_mem_append (l₁ := h.holds ++ [h.held])] at hok
  obtain ⟨hokdrive, hokhold, hokfloat⟩ := hok
  obtain ⟨a, hruna, hata, hpend, hna⟩ := runsTo_hold hat hn (hokdrive h.drive (by simp))
  obtain ⟨b, hrunb, hatb, hnb⟩ := runsTo_release hata (hna ▸ hn) hpend hokhold hholds hheld
  obtain ⟨c, hrunc, hatc, hnc⟩ := Machine.runsTo_floating hatb (hnb ▸ hna ▸ hn) (hokfloat h.high (by simp))
    (hokfloat h.float (by simp))
  exact ⟨c, hruna.trans (hrunb.trans hrunc), hatc, hnc.trans (hnb.trans hna)⟩

/-- RELEASE.POLL waits for the sensor, however long (spec/41_handshake.md R95). -/
theorem runsTo_ackhigh {s : State} {gs : List Gap} {g : Gap} (hat : s.isAt 2#4 2#2) (hn : s.n.toNat < 40)
    (hok : ∀ x ∈ gs ++ [g], x.ok) (hl : linesAt s.line (gs ++ [g]) = waitLevels gs.length .high .low) :
    ∃ t, RunsTo (gs ++ [g]) s t ∧ t.isAt 3#4 0#2 ∧ t.ticks = 0 ∧ t.n = s.n := by
  obtain ⟨u, hu, hlow, hrun⟩ := runsTo_poll (i := .releasePoll) hat hn ⟨rfl, by decide⟩ hok hl
    fun w _ hhigh _ => execReleasePoll_of_high hhigh
  exact ⟨_, hrun _ (execReleasePoll_of_low hlow), ⟨rfl, rfl⟩, rfl, hu.env.n⟩

/-- AwaitAckHigh within its budget (R96). -/
theorem runsTo_acklow {s : State} {gs : List Gap} {g : Gap} (hat : s.isAt 3#4 0#2) (hn : s.n.toNat < 40)
    (ht : s.ticks = 0) (hok : ∀ x ∈ gs ++ [g], x.ok) (hb : WithinBudget s.params s.params.tAck gs)
    (hl : linesAt s.line (gs ++ [g]) = waitLevels gs.length .low .high) :
    ∃ t, RunsTo (gs ++ [g]) s t ∧ t.isAt 4#4 0#2 ∧ t.ticks = 0 ∧ t.n = s.n := by
  obtain ⟨u, hu, hhigh, hrun⟩ := runsTo_budgetedPoll (i := .ackhighPoll) hat hn ⟨rfl, by decide⟩ ht hok hb hl
    fun w hw hlow hle => execAckhighPoll_within hlow (hw.params ▸ hle)
  exact ⟨_, hrun _ (execAckhighPoll_of_high hhigh), ⟨rfl, hu.env.sub.trans hat.2⟩, rfl, hu.env.n⟩

/-- AwaitAckLow within its budget, which starts the count of bits (R97). -/
theorem runsTo_bithigh {s : State} {gs : List Gap} {g : Gap} (hat : s.isAt 4#4 0#2) (hn : s.n.toNat < 40)
    (ht : s.ticks = 0) (hok : ∀ x ∈ gs ++ [g], x.ok) (hb : WithinBudget s.params s.params.tAck gs)
    (hl : linesAt s.line (gs ++ [g]) = waitLevels gs.length .high .low) :
    ∃ t, RunsTo (gs ++ [g]) s t ∧ t.isAt 5#4 0#2 ∧ t.ticks = 0 ∧ t.n = 0#6 := by
  obtain ⟨u, hu, hlow, hrun⟩ := runsTo_budgetedPoll (i := .acklowPoll) hat hn ⟨rfl, by decide⟩ ht hok hb hl
    fun w hw hhigh hle => execAcklowPoll_within hhigh (hw.params ▸ hle)
  exact ⟨_, hrun _ (execAcklowPoll_of_low hlow), ⟨rfl, hu.env.sub.trans hat.2⟩, rfl, rfl⟩

/-- The three waits of the handshake. -/
theorem Handshake.runsTo_bithigh (h : Handshake) {s : State} (hat : s.isAt 2#4 2#2) (hn : s.n.toNat < 40)
    (hok : ∀ g ∈ h.waits, g.ok) (hlows : WithinBudget s.params s.params.tAck h.lows)
    (hhighs : WithinBudget s.params s.params.tAck h.highs) (hl : linesAt s.line h.waits = h.levels) :
    ∃ t, RunsTo h.waits s t ∧ t.isAt 5#4 0#2 ∧ t.ticks = 0 ∧ t.n = 0#6 := by
  rw [h.waits_eq, List.forall_mem_append, List.forall_mem_append (l₁ := h.lows ++ [h.rise])] at hok
  rw [h.waits_eq, h.levels_eq] at hl
  obtain ⟨hokpull, hokrise, hokfall⟩ := hok
  obtain ⟨hpull, hl⟩ := linesAt_append_inj hl (by simp [waitLevels])
  obtain ⟨hrise, hfall⟩ := linesAt_append_inj hl (by simp [waitLevels])
  obtain ⟨a, hruna, hata, hta, hna⟩ := runsTo_ackhigh hat hn hokpull hpull
  rw [← hruna.line hokpull] at hrise hfall
  rw [← hruna.params] at hlows hhighs
  obtain ⟨b, hrunb, hatb, htb, hnb⟩ := runsTo_acklow hata (hna ▸ hn) hta hokrise hlows hrise
  rw [← hrunb.line hokrise] at hfall
  rw [← hrunb.params] at hhighs
  obtain ⟨c, hrunc, hatc, htc, hnc⟩ := Machine.runsTo_bithigh hatb (hnb ▸ hna ▸ hn) htb hokfall hhighs hfall
  exact ⟨c, h.waits_eq ▸ hruna.trans (hrunb.trans hrunc), hatc, htc, hnc⟩

/-! ### The attempt -/

/-- CMD_START, from a state in which no attempt runs. -/
theorem takeStep_startCommand {s : State} {v : Byte} (h : Inv s) (hb : busy s = false) (hv : v.getLsbD 0 = true) :
    takeStep (.hostWrite 0x0#4 v) s = .next (beginAttempt s) := by
  have hn : s.n.toNat < 40 := Nat.lt_succ_of_le h.count.2.1
  have hd : decode (.hostWrite 0x0#4 v) = .ok .cmdStart := decodeHostWrite_eq_ok_iff.2 ⟨⟨rfl, hv⟩, rfl⟩
  rw [takeStep_of_legal (reservedFault_of_legal h.position hn), runMove_of_fetch rfl, runCode_of_decode hd]
  exact execCmdStart_of_not_busy hb

/-- The core steps of an attempt, from the state CMD_START leaves. -/
theorem runsTo_attempt {s : State} {h : Handshake} {ps : List Pulse} (hat : s.isAt 1#4 0#2) (hn : s.n.toNat < 40)
    (hok : ∀ g ∈ h.opening ++ (h.waits ++ streamGaps ps), g.ok) (hholds : ∀ g ∈ h.holds, .delayDone ∉ g)
    (hheld : .delayDone ∈ h.held) (hlows : WithinBudget s.params s.params.tAck h.lows)
    (hhighs : WithinBudget s.params s.params.tAck h.highs) (hlen : ps.length = 40)
    (hb : ∀ p ∈ ps, WithinBudget s.params s.params.tBitWait p.lows)
    (hl : linesAt (Gap.lineAfter s.line h.opening.flatten) (h.waits ++ streamGaps ps) = h.levels ++ streamLevels ps) :
    ∃ t, RunsTo (h.opening ++ (h.waits ++ streamGaps ps)) s t ∧ t.isAt 7#4 0#2 ∧ t.outTag = .frame ∧
      ∀ (j : Nat) (hj : j < ps.length), t.frame.streamBit j = ps[j].bit s.params := by
  rw [List.forall_mem_append, List.forall_mem_append (l₁ := h.waits)] at hok
  obtain ⟨hokopen, hokwaits, hokstream⟩ := hok
  obtain ⟨hlwaits, hlstream⟩ := linesAt_append_inj hl (by simp [h.waits_eq, h.levels_eq, waitLevels])
  obtain ⟨a, hruna, hata, hna⟩ := h.runsTo_floating hat hn hokopen hholds hheld
  rw [← hruna.line hokopen] at hlwaits hlstream
  rw [← hruna.params] at hlows hhighs hb ⊢
  obtain ⟨b, hrunb, hatb, htb, hnb⟩ := h.runsTo_bithigh hata (hna ▸ hn) hokwaits hlows hhighs hlwaits
  rw [← hrunb.line hokwaits] at hlstream
  rw [← hrunb.params] at hb ⊢
  have hne : ps ≠ [] := fun h0 => by simp [h0] at hlen
  obtain ⟨t, hrunt, hatt, -, htag, -, -, hbits⟩ :=
    runsTo_stream ps hne hatb (by simp [hnb, hlen]) htb hokstream hb hlstream
  refine ⟨t, hruna.trans (hrunb.trans hrunt), hatt, htag, fun j hj => ?_⟩
  simpa [hnb] using hbits j hj

/-- Settles O51: the command, then the core steps of the attempt; what STATUS reads and that the line is released follow
from the invariants, which every run keeps. -/
theorem anAttemptDeliversTheFrame : Obligations.AnAttemptDeliversTheFrame := by
  unfold Obligations.AnAttemptDeliversTheFrame
  intro s v h ps rest hinv hbusy hv hok hholds hheld hlows hhighs hlen hb hl hmoves
  have hinv' : Inv { s with moves := rest } := hinv.of_sameRegisters ⟨rfl, rfl, rfl, rfl, rfl, rfl, rfl, rfl⟩ id
  obtain ⟨t, hrun, hat, htag, hbits⟩ := runsTo_attempt (s := beginAttempt { s with moves := rest }) ⟨rfl, rfl⟩
    (by simp) hok hholds hheld hlows hhighs hlen hb hl
  have hall : runMoves (.hostWrite 0x0#4 v :: coreSteps (h.opening ++ (h.waits ++ streamGaps ps)))
      { s with moves := rest } = .next t :=
    (runMoves_cons_of_next (takeStep_startCommand hinv' hbusy hv)).trans hrun
  have ht : Inv t := hinv'.after_runMoves hall
  obtain ⟨hdir, hlvl, -⟩ := ht.pinsReleased hat (by decide)
  refine ⟨t, ?_, hat.1, hdir, hlvl, runMoves_moves hall, (memRead_status t).trans (ht.statusByte_of_frame htag), hbits⟩
  rw [Nat.add_comm]
  exact run_of_runMoves hmoves hall

end Sys2Proof.Machine

/-! ### The handshake ops and the transition graph (spec/41_handshake.md)

What each handshake op answers in every state (R91 to R97), and the position each instruction leaves the sequencer at, from
which the table of R99 is read row by row. -/

namespace Sys2Proof.Machine

/-! ### Where an instruction leaves the sequencer -/

/-- The `(phase, sub)` an instruction leaves behind where it completes, whatever the position it is executed at: only the
position and what the op branches on are looked at (the conditions of R99). -/
def positionAfter (i : Instr) (s : State) : BitVec 4 × BitVec 2 :=
  match i with
  | .startDrive => (s.phase, 1#2)
  | .startHold => if s.dlyPending = false then (Phase.release, 0#2) else (s.phase, s.sub)
  | .releaseHigh => (s.phase, 1#2)
  | .releaseFloat => (s.phase, 2#2)
  | .releasePoll => if s.line = .low then (Phase.ackhigh, 0#2) else (s.phase, s.sub)
  | .ackhighPoll =>
    if s.line = .high then (Phase.acklow, s.sub)
    else if s.params.tAck < s.ticks then (Phase.failed, 0#2) else (s.phase, s.sub)
  | .acklowPoll =>
    if s.line = .low then (Phase.bithigh, s.sub)
    else if s.params.tAck < s.ticks then (Phase.failed, 0#2) else (s.phase, s.sub)
  | .bithighPoll =>
    if s.line = .high then (Phase.pulse, s.sub)
    else if s.params.tBitWait < s.ticks then (Phase.failed, 0#2) else (s.phase, s.sub)
  | .pulsePoll =>
    if s.line = .low ∧ s.n.toNat < 39 then (Phase.bithigh, s.sub)
    else if s.line = .low ∧ s.n.toNat = 39 then (Phase.complete, s.sub) else (s.phase, s.sub)
  | .cmdStart => if busy s = false then (Phase.start, 0#2) else (s.phase, s.sub)
  | .idleWait | .completeHold | .failedHold | .hostRd _ | .bitdec _ | .pack _ _ | .chksum _ _ _ _ _ =>
    (s.phase, s.sub)

theorem exec_position {i : Instr} {s t : State} (h : exec i s = .next t) : (t.phase, t.sub) = positionAfter i s := by
  cases i with
  | startHold => rcases execStartHold_cases h with ⟨hd, rfl⟩ | ⟨hd, rfl⟩ <;> simp [positionAfter, hd]
  | releasePoll => rcases execReleasePoll_cases h with ⟨hl, rfl⟩ | ⟨hl, rfl⟩ <;> simp [positionAfter, hl]
  | ackhighPoll =>
    rcases execAckhighPoll_cases h with ⟨hl, rfl⟩ | ⟨hl, ht, rfl⟩ | ⟨hl, ht, rfl⟩
    · simp [positionAfter, hl]
    · simp [positionAfter, hl, ht]
    · simp [positionAfter, hl, Nat.not_lt.2 ht]
  | acklowPoll =>
    rcases execAcklowPoll_cases h with ⟨hl, rfl⟩ | ⟨hl, ht, rfl⟩ | ⟨hl, ht, rfl⟩
    · simp [positionAfter, hl]
    · simp [positionAfter, hl, ht]
    · simp [positionAfter, hl, Nat.not_lt.2 ht]
  | bithighPoll =>
    rcases execBithighPoll_cases h with ⟨hl, rfl⟩ | ⟨hl, ht, rfl⟩ | ⟨hl, ht, rfl⟩
    · simp [positionAfter, hl]
    · simp [positionAfter, hl, ht]
    · simp [positionAfter, hl, Nat.not_lt.2 ht]
  | pulsePoll =>
    rcases execPulsePoll_cases h with ⟨hl, rfl⟩ | ⟨hl, hn, rfl⟩ | ⟨hl, hn, rfl⟩
    · simp [positionAfter, hl]
    · simp [positionAfter, hl, hn]
    · simp [positionAfter, hl, hn]
  | cmdStart => rcases execCmdStart_cases h with ⟨hb, rfl⟩ | ⟨hb, rfl⟩ <;> simp [positionAfter, hb]
  | pack n b =>
    obtain ⟨-, rfl⟩ := execPack_cases h
    rfl
  | idleWait | startDrive | releaseHigh | releaseFloat | completeHold | failedHold | hostRd _ | bitdec _
  | chksum _ _ _ _ _ =>
    cases h
    rfl

/-- The move that is CMD_START executes CMD_START. -/
theorem exec_cmdStart_of_takeStep {m : Move} {s t : State} (hm : IsStartCommand m) (h : takeStep m s = .next t) :
    exec .cmdStart s = .next t := by
  obtain ⟨v, rfl, hv⟩ := hm
  have hd : decode (.hostWrite 0x0#4 v) = .ok .cmdStart := decodeHostWrite_eq_ok_iff.2 ⟨⟨rfl, hv⟩, rfl⟩
  rcases takeStep_next_cases h with ⟨hm, -⟩ | ⟨hm, -⟩ | ⟨_, hm, -⟩ | ⟨hm, -⟩ | ⟨_, _, hm, hno, -⟩ | ⟨c, i, hf, hdi, he, -⟩
  · cases hm
  · cases hm
  · cases hm
  · cases hm
  · cases hm
    cases hd.symm.trans hno
  · cases hf
    cases hd.symm.trans hdi
    exact he

/-- Of the agents outside the sequencer only `rst` and CMD_START move it. -/
theorem takeStep_position_of_other {m : Move} {s t : State} (hr : m ≠ .rst) (hc : m ≠ .core) (hs : ¬ IsStartCommand m)
    (h : takeStep m s = .next t) : (t.phase, t.sub) = (s.phase, s.sub) := by
  rcases takeStep_next_cases h with ⟨hm, -⟩ | ⟨-, rfl⟩ | ⟨v, -, rfl⟩ | ⟨-, rfl⟩ | ⟨a, v, -, -, rfl⟩ |
    ⟨c, i, hf, hd, he, -⟩
  · exact absurd hm hr
  · rfl
  · rfl
  · rfl
  · rfl
  · rw [exec_position he]
    rcases fetch_cases hf hd with ⟨hm, -⟩ | ⟨-, hm⟩ | ⟨a, rfl⟩ | ⟨e, rfl⟩ | ⟨n, b, rfl⟩ | ⟨_, _, _, _, _, rfl⟩
    · exact absurd hm hc
    · exact absurd hm hs
    · rfl
    · rfl
    · rfl
    · rfl

/-- Settles O30: a core step executes the op of its position, and at a position the rows of R99 left are the branches of
that op. -/
theorem positionMovesOnlyAlongTheGraph : Obligations.PositionMovesOnlyAlongTheGraph := by
  unfold Obligations.PositionMovesOnlyAlongTheGraph
  intro s t m h
  refine ⟨?_, ?_, ?_, fun hr hc hs => takeStep_position_of_other hr hc hs h⟩
  · rintro rfl
    cases h
    exact ⟨rfl, rfl⟩
  · intro hm
    rw [exec_position (exec_cmdStart_of_takeStep hm h)]
    simp only [positionAfter, busy_eq_false_iff]
  · rintro rfl
    obtain ⟨-, i, hd, he⟩ := takeStep_core_cases h
    rw [exec_position he]
    rcases decodeSeq_cases hd with ⟨⟨hp, hq⟩, rfl⟩ | ⟨⟨hp, hq⟩, rfl⟩ | ⟨⟨hp, hq⟩, rfl⟩ | ⟨⟨hp, hq⟩, rfl⟩ |
      ⟨⟨hp, hq⟩, rfl⟩ | ⟨⟨hp, hq⟩, rfl⟩ | ⟨⟨hp, hq⟩, rfl⟩ | ⟨⟨hp, hq⟩, rfl⟩ | ⟨⟨hp, hq⟩, rfl⟩ | ⟨⟨hp, hq⟩, rfl⟩ |
      ⟨⟨hp, hq⟩, rfl⟩ | ⟨⟨hp, hq⟩, rfl⟩ <;> simp [positionAfter, hp, hq]

/-! ### The results of the handshake ops -/

/-- Settles O8: the four writes of R91 are the op itself, in one step. -/
theorem startDriveDrivesLowAndRequestsTheDelay : Obligations.StartDriveDrivesLowAndRequestsTheDelay := fun _ => rfl

/-- Settles O9: by whether the delay is done. -/
theorem startHoldWaitsForTheDelay : Obligations.StartHoldWaitsForTheDelay := by
  unfold Obligations.StartHoldWaitsForTheDelay
  exact fun s => ⟨execStartHold_of_done, execStartHold_of_pending⟩

/-- Settles O10: each of the two ops writes one latch and `sub`. -/
theorem releaseDrivesHighThenFloats : Obligations.ReleaseDrivesHighThenFloats := fun _ => ⟨rfl, rfl⟩

/-- Settles O11: by the level found; the poll has no budget to exceed. -/
theorem releasePollWaitsForLow : Obligations.ReleasePollWaitsForLow := by
  unfold Obligations.ReleasePollWaitsForLow
  exact fun s => ⟨execReleasePoll_of_low, execReleasePoll_of_high⟩

theorem execAckhighPoll_beyond {s : State} (h : s.line = .low) (ht : s.params.tAck < s.ticks) :
    execAckhighPoll s = .next (raiseTimeout .ackHigh s) := by
  simp [execAckhighPoll, poll_timeout (awaited := .high) (s := s) (by simp [h]) ht]

theorem execAcklowPoll_beyond {s : State} (h : s.line = .high) (ht : s.params.tAck < s.ticks) :
    execAcklowPoll s = .next (raiseTimeout .ackLow s) := by
  simp [execAcklowPoll, poll_timeout (awaited := .low) (s := s) (by simp [h]) ht]

/-- Settles O12: the level first, then the reading against `T_ACK`. -/
theorem ackHighPollResult : Obligations.AckHighPollResult := by
  unfold Obligations.AckHighPollResult
  exact fun s => ⟨execAckhighPoll_of_high, execAckhighPoll_beyond, execAckhighPoll_within⟩

/-- Settles O13: the level first, then the reading against `T_ACK`. -/
theorem ackLowPollResult : Obligations.AckLowPollResult := by
  unfold Obligations.AckLowPollResult
  exact fun s => ⟨execAcklowPoll_of_low, execAcklowPoll_beyond, execAcklowPoll_within⟩

end Sys2Proof.Machine

/-! ### The bit-stream ops and the stream they decode (spec/42_bitstream.md)

What each op and function of the bit stream answers in every state (R102 to R105), the pulse that outlasts the counter
(R106), and the forty pulses that complete a frame (R107). -/

namespace Sys2Proof.Machine

/-! ### The results of the bit-stream ops and functions -/

theorem execBithighPoll_beyond {s : State} (h : s.line = .low) (ht : s.params.tBitWait < s.ticks) :
    execBithighPoll s = .next (raiseTimeout .bitHigh s) := by
  simp [execBithighPoll, poll_timeout (awaited := .high) (s := s) (by simp [h]) ht]

/-- Settles O14: the level first, then the reading against `T_BITWAIT`. -/
theorem bitHighPollResult : Obligations.BitHighPollResult := by
  unfold Obligations.BitHighPollResult
  exact fun s => ⟨execBithighPoll_of_high, execBithighPoll_beyond, execBithighPoll_within⟩

/-- Settles O15: the level first, then whether the bit is the frame's last. -/
theorem pulsePollResult : Obligations.PulsePollResult := by
  unfold Obligations.PulsePollResult
  refine fun s => ⟨execPulsePoll_of_high, execPulsePoll_of_low, fun hlow hlast => ?_⟩
  rw [← hlast]
  exact execPulsePoll_of_low_last hlow hlast

theorem bitdec_of_le {t e : Nat} (h : e ≤ t) : bitdec t e = false := decide_eq_false (Nat.not_lt.2 h)

theorem bitdec_of_lt {t e : Nat} (h : t < e) : bitdec t e = true := decide_eq_true h

/-- Settles O18: the bit handed out is the comparator's, on either side of the threshold. -/
theorem bitdecComparesInclusively : Obligations.BitdecComparesInclusively := by
  unfold Obligations.BitdecComparesInclusively
  intro e s
  have hexec : exec (.bitdec e) s = .next { s with answer := .bit (bitdec s.params.tBit e.toNat) } := rfl
  exact ⟨fun hle => by rw [hexec, bitdec_of_le hle], fun hlt => by rw [hexec, bitdec_of_lt hlt]⟩

/-- PACK by byte and bit: the one at the stream position's index and position is assigned. -/
theorem Frame.getLsbD_byte_pack (f : Frame) {n i k : Nat} (b : Bool) (hn : n < 40) (hk : k < 8) :
    ((pack f n b).byte i).getLsbD k =
      if i = byteIndex n ∧ k = bitPosition n then b else (f.byte i).getLsbD k := by
  have hbyte : byteIndex n < 5 := by unfold byteIndex; omega
  rw [pack, Frame.byte_setByte _ _ _ _ hbyte]
  by_cases hi : i = byteIndex n
  · rw [if_pos hi, setBit_getLsbD _ _ _ _ hk, hi]
    simp only [true_and]
  · rw [if_neg hi, if_neg (fun h => hi h.1)]

theorem execPack_of_le {n : BitVec 6} (b : Bool) (s : State) (h : 40 ≤ n.toNat) :
    execPack n b s = .fault .framePosition := if_neg (Nat.not_lt.2 h)

/-- Settles O19: the frame handed out is the packed frame buffer. -/
theorem packHandsOutTheFrameWithOneBitAssigned : Obligations.PackHandsOutTheFrameWithOneBitAssigned := by
  unfold Obligations.PackHandsOutTheFrameWithOneBitAssigned
  intro n b s
  refine ⟨fun hn => ⟨pack s.frame n.toNat b, execPack_of_lt b s hn, fun i k _ hk => ?_⟩, execPack_of_le b s⟩
  exact s.frame.getLsbD_byte_pack b hn hk

/-! ### Runs: one pulse, forty pulses -/

/-- PULSE.POLL at the poll that samples low stores the bit the timer decides, the last bit of a frame or not. -/
theorem execPulsePoll_stores {s : State} (h : s.line = .low) (hn : s.n.toNat < 40) :
    ∃ t, execPulsePoll s = .next t ∧ t.frame = (storeBit s).frame := by
  rcases Nat.lt_or_eq_of_le (Nat.le_of_lt_succ hn) with hlt | hlast
  · exact ⟨_, execPulsePoll_of_low h hlt, rfl⟩
  · exact ⟨_, execPulsePoll_of_low_last h hlast, rfl⟩

/-- The gap in which the timer counts `c` increments and then the line falls. -/
def fallAfter (c : Nat) : Gap := List.replicate c .tick ++ [.line .low]

theorem fallAfter_ok (c : Nat) : (fallAfter c).ok := by
  intro m hm
  rcases List.mem_append.1 hm with htick | hfall
  · rw [List.eq_of_mem_replicate htick]
    rfl
  · rw [List.mem_singleton.1 hfall]
    rfl

theorem ticks_fallAfter (c : Nat) : (fallAfter c).ticks = c := by
  simp [Gap.ticks, fallAfter]

theorem lineAfter_fallAfter (l : Level) (c : Nat) : (fallAfter c).lineAfter l = .low :=
  lineAfter_append l (List.replicate c .tick) [.line .low]

/-- A wait in MeasurePulse that ends after `c` increments stores the bit of the wrapped count (spec/42_bitstream.md R106). -/
theorem runsTo_fallAfter {s : State} (c : Nat) (hat : s.isAt 6#4 0#2) (hn : s.n.toNat < 40) (ht : s.ticks = 0) :
    ∃ t, RunsTo [fallAfter c] s t ∧ t.frame = pack s.frame s.n.toNat (bitdec s.params.tBit (s.params.wrap c)) := by
  obtain ⟨u, hu, hrun⟩ := runsTo_op (i := .pulsePoll) hat hn ⟨rfl, by decide⟩ (fallAfter_ok c)
  have hlow : u.line = .low := by
    rw [hu.line, List.flatten_singleton, lineAfter_fallAfter]
  have hread : u.ticks = s.params.wrap c := by
    rw [hu.ticks (ht ▸ Nat.two_pow_pos _), ht, Nat.zero_add]
    simp [gapTicks, ticks_fallAfter]
  obtain ⟨t, hexec, hframe⟩ := execPulsePoll_stores hlow (hu.env.n ▸ hn)
  refine ⟨t, hrun t hexec, ?_⟩
  rw [hframe, storeBit_frame, hu.env.frame, hu.env.n, hu.env.params, hread]

/-- Settles O47: the increments and the fall are one gap, and the poll after it reads the wrapped count. -/
theorem pulseWidthIsReadModulo256 : Obligations.PulseWidthIsReadModulo256 := by
  unfold Obligations.PulseWidthIsReadModulo256
  intro s c rest hat hn ht hmoves
  obtain ⟨t, hrun, hframe⟩ := runsTo_fallAfter (s := { s with moves := rest }) c hat hn ht
  have hschedule : s.moves = coreSteps [fallAfter c] ++ rest := by simp [hmoves, coreSteps, fallAfter]
  have hlength : (coreSteps [fallAfter c]).length = c + 2 := by simp [coreSteps, fallAfter]
  exact ⟨t, hlength ▸ run_of_runMoves hschedule hrun, hframe, runMoves_moves hrun⟩

/-- Settles O50: the forty pulses complete the frame, from the first stream position on. -/
theorem fortyPulsesGiveTheFrame : Obligations.FortyPulsesGiveTheFrame := by
  unfold Obligations.FortyPulsesGiveTheFrame
  intro s ps rest hat hn ht hlen hok hb hl hmoves
  have hne : ps ≠ [] := List.ne_nil_of_length_pos (by omega)
  obtain ⟨t, hrun, hatt, hnt, htag, hstage, -, hbits⟩ :=
    runsTo_stream (s := { s with moves := rest }) ps hne hat (by simp [hn, hlen]) ht hok hb hl
  refine ⟨t, run_of_runMoves hmoves hrun, hatt, hnt, htag, hstage, runMoves_moves hrun, fun j hj => ?_⟩
  simpa [hn, Pulse.bit] using hbits j hj

end Sys2Proof.Machine

/-! ### The checksum validator and the terminal ops (spec/43_checksum.md)

What CHKSUM hands out (R115), the two adders that compute its verdict (R116), and that nothing but CMD_START and reset ends
Complete or Failed (R117, R118). -/

namespace Sys2Proof.Machine

/-! ### The verdict -/

/-- Settles O20: the row hands out the validator's verdict, which is defined as the exact sum's. -/
theorem chksumComparesTheSumModulo256 : Obligations.ChksumComparesTheSumModulo256 := fun _ _ _ _ _ _ => rfl

/-- The carry an accumulator drops at an addition does not reach the bits it keeps (spec/43_checksum.md R116). -/
theorem toNat_accumulate (a b c d : Byte) :
    (a + b + c + d).toNat = (a.toNat + b.toNat + c.toNat + d.toNat) % 256 := by
  simp only [BitVec.toNat_add, Nat.reducePow, Nat.mod_add_mod]

/-- The sum in a wider adder, truncated, is the accumulator's. -/
theorem setWidth_wide_sum (a b c d : Byte) :
    (a.setWidth 10 + b.setWidth 10 + c.setWidth 10 + d.setWidth 10).setWidth 8 = a + b + c + d := by
  have hbyte (x : Byte) : (x.setWidth 10).setWidth 8 = x := by
    rw [BitVec.setWidth_setWidth_of_le x (by decide), BitVec.setWidth_eq]
  simp only [BitVec.setWidth_add _ _ (show 8 ≤ 10 by decide), hbyte]

theorem chksum_eq_decide_accumulate (f : Frame) :
    chksum f = decide (f.humidityInt + f.humidityFrac + f.tempInt + f.tempFrac = f.checksum) := by
  rw [chksum, ← toNat_accumulate, decide_eq_decide, BitVec.toNat_inj]

/-- Settles O44: the accumulator's sum is the exact one modulo 256, and the adder's truncated sum is the accumulator's. -/
theorem checksumByEightBitAccumulator : Obligations.ChecksumByEightBitAccumulator := by
  unfold Obligations.ChecksumByEightBitAccumulator
  refine ⟨fun f => ⟨chksum_eq_decide_accumulate f, ?_⟩, by decide, by decide⟩
  rw [setWidth_wide_sum]
  exact chksum_eq_decide_accumulate f

/-! ### A finished attempt -/

/-- The core's op in a terminal phase is that phase's hold (R117, R118). -/
theorem decodeSeq_of_finished {s : State} {i : Instr} (hp : s.phase = 7#4 ∨ s.phase = 8#4)
    (h : decodeSeq s.seq = .ok i) : i = .completeHold ∨ i = .failedHold := by
  rcases hp with hp | hp
  · obtain ⟨-, hi⟩ : s.sub = 0#2 ∧ i = .completeHold := by simpa [hp] using decodeSeq_cases h
    exact .inl hi
  · obtain ⟨-, hi⟩ : s.sub = 0#2 ∧ i = .failedHold := by simpa [hp] using decodeSeq_cases h
    exact .inr hi

/-- A DELAY step with nothing pending (log 13). -/
theorem delayComplete_of_not_pending {s : State} (h : s.dlyPending = false) : delayComplete s = s := by
  rw [delayComplete, ← h]

/-- R35 item 8: a delay is pending in Start alone. -/
theorem Inv.dlyPending_of_finished {s : State} (h : Inv s) (hp : s.phase = 7#4 ∨ s.phase = 8#4) :
    s.dlyPending = false := by
  refine eq_false_of_ne_true fun hd => ?_
  obtain ⟨hstart, -⟩ := h.delay hd
  rcases hp with hp | hp <;> simp [hp] at hstart

/-- Whatever instruction a move runs in a terminal phase, if it is not CMD_START it only hands out an answer. -/
theorem exec_only_answers_of_finished {m : Move} {s t : State} {c : Code} {i : Instr}
    (hp : s.phase = 7#4 ∨ s.phase = 8#4) (hs : ¬ IsStartCommand m) (hf : fetch m s = some c) (hd : decode c = .ok i)
    (he : exec i s = .next t) : ∃ x, t = giveAnswer x s := by
  refine exec_only_answers he ?_
  rcases fetch_cases hf hd with ⟨-, hseq⟩ | ⟨-, hm⟩ | hword
  · rcases decodeSeq_of_finished hp hseq with rfl | rfl <;> simp
  · exact absurd hm hs
  · exact .inr (.inr (.inr hword))

/-- Settles O40: agent by agent; the core and the host's words only hand out an answer, and no delay is pending that could
complete. -/
theorem outcomeIsStableUntilCommandOrReset : Obligations.OutcomeIsStableUntilCommandOrReset := by
  unfold Obligations.OutcomeIsStableUntilCommandOrReset
  intro s t m hinv hp hr hs h
  rcases takeStep_next_cases h with ⟨hm, -⟩ | ⟨-, rfl⟩ | ⟨v, -, rfl⟩ | ⟨-, rfl⟩ | ⟨_, _, -, -, rfl⟩ |
    ⟨c, i, hf, hd, he, -⟩
  · exact absurd hm hr
  · rfl
  · rfl
  · rw [delayComplete_of_not_pending (hinv.dlyPending_of_finished hp)]
  · rfl
  · obtain ⟨x, rfl⟩ := exec_only_answers_of_finished hp hs hf hd he
    rfl

end Sys2Proof.Machine

/-! ### Timeouts, the status lines and the ports (spec/60_exceptions.md)

Which instruction can raise the block's one exception and what that leaves (R126, R132), that the status lines follow the phase
(R143), and that the two strobes of R144 mark the steps they stand for. -/

namespace Sys2Proof.Machine

/-! ### Who writes the outcome -/

/-- R126: the instruction, the level found, the budget exceeded and the stage of each cause of a timeout. -/
def TimeoutCause (i : Instr) (s : State) (g : Stage) : Prop :=
  (i = .ackhighPoll ∧ s.line = .low ∧ s.params.tAck < s.ticks ∧ g = .ackHigh) ∨
  (i = .acklowPoll ∧ s.line = .high ∧ s.params.tAck < s.ticks ∧ g = .ackLow) ∨
  (i = .bithighPoll ∧ s.line = .low ∧ s.params.tBitWait < s.ticks ∧ g = .bitHigh)

theorem TimeoutCause.stage_of_op {i : Instr} {s : State} {g : Stage} (h : TimeoutCause i s g) :
    i = .ackhighPoll ∧ g = .ackHigh ∨ i = .acklowPoll ∧ g = .ackLow ∨ i = .bithighPoll ∧ g = .bitHigh := by
  rcases h with ⟨hi, -, -, hg⟩ | ⟨hi, -, -, hg⟩ | ⟨hi, -, -, hg⟩
  · exact .inl ⟨hi, hg⟩
  · exact .inr (.inl ⟨hi, hg⟩)
  · exact .inr (.inr ⟨hi, hg⟩)

/-- Nothing is recorded about how an attempt ended, and Failed is not entered. -/
structure NoNewOutcome (s t : State) : Prop where
  outTag : t.outTag = s.outTag
  outStage : t.outStage = s.outStage
  failed : t.phase = Phase.failed → s.phase = Phase.failed

theorem NoNewOutcome.refl (s : State) : NoNewOutcome s s := ⟨rfl, rfl, id⟩

theorem NoNewOutcome.of_phase_ne {s t : State} (htag : t.outTag = s.outTag) (hstage : t.outStage = s.outStage)
    (hp : t.phase ≠ Phase.failed) : NoNewOutcome s t := ⟨htag, hstage, fun h => absurd h hp⟩

/-- What an instruction can do to the outcome: R17's three writers, the abort with its cause, and the others. -/
inductive OutcomeAfter (i : Instr) (s t : State) : Prop
  | abort (g : Stage) (cause : TimeoutCause i s g) (next : t = raiseTimeout g s)
  | start (op : i = .cmdStart) (next : t = beginAttempt s)
  | complete (op : i = .pulsePoll) (next : t = changePhase Phase.complete (setOutcome .frame .ackHigh (storeBit s)))
  | unwritten (same : NoNewOutcome s t)

/-- The outcome has no further writer (spec/10_state.md R17). -/
theorem exec_outcomeAfter {i : Instr} {s t : State} (h : exec i s = .next t) : OutcomeAfter i s t := by
  cases i with
  | ackhighPoll =>
    rcases execAckhighPoll_cases h with ⟨-, rfl⟩ | ⟨hl, ht, rfl⟩ | ⟨-, -, rfl⟩
    · exact .unwritten (.of_phase_ne rfl rfl (by simp))
    · exact .abort .ackHigh (.inl ⟨rfl, hl, ht, rfl⟩) rfl
    · exact .unwritten (.refl _)
  | acklowPoll =>
    rcases execAcklowPoll_cases h with ⟨-, rfl⟩ | ⟨hl, ht, rfl⟩ | ⟨-, -, rfl⟩
    · exact .unwritten (.of_phase_ne rfl rfl (by simp))
    · exact .abort .ackLow (.inr (.inl ⟨rfl, hl, ht, rfl⟩)) rfl
    · exact .unwritten (.refl _)
  | bithighPoll =>
    rcases execBithighPoll_cases h with ⟨-, rfl⟩ | ⟨hl, ht, rfl⟩ | ⟨-, -, rfl⟩
    · exact .unwritten (.of_phase_ne rfl rfl (by simp))
    · exact .abort .bitHigh (.inr (.inr ⟨rfl, hl, ht, rfl⟩)) rfl
    · exact .unwritten (.refl _)
  | pulsePoll =>
    rcases execPulsePoll_cases h with ⟨-, rfl⟩ | ⟨-, -, rfl⟩ | ⟨-, -, rfl⟩
    · exact .unwritten (.refl _)
    · exact .unwritten (.of_phase_ne rfl rfl (by simp))
    · exact .complete rfl rfl
  | cmdStart =>
    rcases execCmdStart_cases h with ⟨-, rfl⟩ | ⟨-, rfl⟩
    · exact .unwritten (.refl _)
    · exact .start rfl rfl
  | startHold =>
    rcases execStartHold_cases h with ⟨-, rfl⟩ | ⟨-, rfl⟩
    · exact .unwritten (.of_phase_ne rfl rfl (by simp))
    · exact .unwritten (.refl _)
  | releasePoll =>
    rcases execReleasePoll_cases h with ⟨-, rfl⟩ | ⟨-, rfl⟩
    · exact .unwritten (.of_phase_ne rfl rfl (by simp))
    · exact .unwritten (.refl _)
  | pack n b =>
    obtain ⟨-, rfl⟩ := execPack_cases h
    exact .unwritten ⟨rfl, rfl, id⟩
  | idleWait | startDrive | releaseHigh | releaseFloat | completeHold | failedHold | hostRd _ | bitdec _
  | chksum _ _ _ _ _ =>
    cases h
    exact .unwritten ⟨rfl, rfl, id⟩

/-- Settles O33: of the writers of the outcome only the abort writes a timeout, and it comes with its cause. -/
theorem timeoutsComeOnlyFromTheThreeBudgetedPolls : Obligations.TimeoutsComeOnlyFromTheThreeBudgetedPolls := by
  unfold Obligations.TimeoutsComeOnlyFromTheThreeBudgetedPolls
  intro i s t h
  rcases exec_outcomeAfter h with ⟨g, hc, rfl⟩ | ⟨rfl, rfl⟩ | ⟨rfl, rfl⟩ | ⟨htag, hstage, -⟩
  · refine ⟨fun _ _ => hc, fun _ _ hh hl hb => ?_⟩
    rcases hc.stage_of_op with ⟨hi, -⟩ | ⟨hi, -⟩ | ⟨hi, -⟩
    · exact absurd hi hh
    · exact absurd hi hl
    · exact absurd hi hb
  · simp
  · simp
  · exact ⟨fun ht hs => absurd (htag.symm.trans ht) hs, fun _ _ _ _ _ => ⟨htag, hstage⟩⟩

/-- Settles O34: of the writers of the outcome only the abort enters Failed, and it does `raiseTimeout` to the state. -/
theorem abortDiscardsAllProgressAndParks : Obligations.AbortDiscardsAllProgressAndParks := by
  unfold Obligations.AbortDiscardsAllProgressAndParks
  intro i s t h ht hs
  rcases exec_outcomeAfter h with ⟨g, hc, rfl⟩ | ⟨-, rfl⟩ | ⟨-, rfl⟩ | ⟨-, -, hfailed⟩
  · exact ⟨g, hc.stage_of_op, rfl⟩
  · simp at ht
  · simp at ht
  · exact absurd (hfailed ht) hs

/-! ### The status lines -/

/-- An instruction writes the phase through `changePhase` alone, which writes `led` with it (spec/41_handshake.md R90 b). -/
theorem LedFollowsPhase.after_exec {i : Instr} {s t : State} (hs : LedFollowsPhase s) (h : exec i s = .next t) :
    LedFollowsPhase t := by
  cases i with
  | startHold =>
    rcases execStartHold_cases h with ⟨-, rfl⟩ | ⟨-, rfl⟩
    exacts [rfl, hs]
  | releasePoll =>
    rcases execReleasePoll_cases h with ⟨-, rfl⟩ | ⟨-, rfl⟩
    exacts [rfl, hs]
  | ackhighPoll =>
    rcases execAckhighPoll_cases h with ⟨-, rfl⟩ | ⟨-, -, rfl⟩ | ⟨-, -, rfl⟩
    exacts [rfl, rfl, hs]
  | acklowPoll =>
    rcases execAcklowPoll_cases h with ⟨-, rfl⟩ | ⟨-, -, rfl⟩ | ⟨-, -, rfl⟩
    exacts [rfl, rfl, hs]
  | bithighPoll =>
    rcases execBithighPoll_cases h with ⟨-, rfl⟩ | ⟨-, -, rfl⟩ | ⟨-, -, rfl⟩
    exacts [rfl, rfl, hs]
  | pulsePoll =>
    rcases execPulsePoll_cases h with ⟨-, rfl⟩ | ⟨-, -, rfl⟩ | ⟨-, -, rfl⟩
    exacts [hs, rfl, rfl]
  | cmdStart =>
    rcases execCmdStart_cases h with ⟨-, rfl⟩ | ⟨-, rfl⟩
    exacts [hs, rfl]
  | pack n b =>
    obtain ⟨-, rfl⟩ := execPack_cases h
    exact hs
  | idleWait | startDrive | releaseHigh | releaseFloat | completeHold | failedHold | hostRd _ | bitdec _
  | chksum _ _ _ _ _ =>
    cases h
    exact hs

theorem LedFollowsPhase.after_takeStep {m : Move} {s t : State} (hs : LedFollowsPhase s) (h : takeStep m s = .next t) :
    LedFollowsPhase t := by
  rcases takeStep_next_cases h with ⟨-, rfl⟩ | ⟨-, rfl⟩ | ⟨v, -, rfl⟩ | ⟨-, rfl⟩ | ⟨a, v, -, -, rfl⟩ |
    ⟨c, i, -, -, he, -⟩
  · rfl
  · exact hs
  · exact hs
  · exact hs
  · exact hs
  · exact hs.after_exec he

/-- Settles O28: reset shows Idle, and neither the schedule nor any agent's step parts `led` from `phase`. -/
theorem ledAlwaysShowsThePhase : Obligations.LedAlwaysShowsThePhase := by
  unfold Obligations.LedAlwaysShowsThePhase
  refine ⟨rfl, fun s t hs h => ?_⟩
  have htaken : LedFollowsPhase (takeMove s) := by simpa [LedFollowsPhase] using hs
  exact htaken.after_takeStep h

/-! ### The ports -/

theorem executesOp_eq_true_iff {m : Move} {s : State} :
    executesOp m s = true ↔ m = .core ∧ reservedFault s = none := by
  simp [executesOp]

/-- `SEQ` holds the word of the op it selects. -/
theorem seq_eq_of_decodeSeq {s : State} {i : Instr} {w : BitVec 6} (h : decodeSeq s.seq = .ok i)
    (hw : encode i = .seq w) : s.seq = w := Code.seq.inj ((decodeSeq_eq_ok_iff.1 h).symm.trans hw)

/-- A core step clears the count exactly where the port `tmr_clr` says so: R140's five ops do, where they find their level. -/
theorem exec_ticks_of_core {i : Instr} {s t : State} (hr : reservedFault s = none) (hd : decodeSeq s.seq = .ok i)
    (h : exec i s = .next t) : t.ticks = if timerCleared .core s then 0 else s.ticks := by
  have hx : executesOp .core s = true := executesOp_eq_true_iff.2 ⟨rfl, hr⟩
  cases i with
  | releasePoll =>
    have hseq : s.seq = 0x0A#6 := seq_eq_of_decodeSeq hd rfl
    rcases execReleasePoll_cases h with ⟨hl, rfl⟩ | ⟨hl, rfl⟩ <;> simp [timerCleared, hx, hseq, hl]
  | ackhighPoll =>
    have hseq : s.seq = 0x0C#6 := seq_eq_of_decodeSeq hd rfl
    rcases execAckhighPoll_cases h with ⟨hl, rfl⟩ | ⟨hl, -, rfl⟩ | ⟨hl, -, rfl⟩ <;> simp [timerCleared, hx, hseq, hl]
  | acklowPoll =>
    have hseq : s.seq = 0x10#6 := seq_eq_of_decodeSeq hd rfl
    rcases execAcklowPoll_cases h with ⟨hl, rfl⟩ | ⟨hl, -, rfl⟩ | ⟨hl, -, rfl⟩ <;> simp [timerCleared, hx, hseq, hl]
  | bithighPoll =>
    have hseq : s.seq = 0x14#6 := seq_eq_of_decodeSeq hd rfl
    rcases execBithighPoll_cases h with ⟨hl, rfl⟩ | ⟨hl, -, rfl⟩ | ⟨hl, -, rfl⟩ <;> simp [timerCleared, hx, hseq, hl]
  | pulsePoll =>
    have hseq : s.seq = 0x18#6 := seq_eq_of_decodeSeq hd rfl
    rcases execPulsePoll_cases h with ⟨hl, rfl⟩ | ⟨hl, hn, rfl⟩ | ⟨hl, hn, rfl⟩
    · simp [timerCleared, hseq, hl]
    · simp [timerCleared, hx, hseq, hl, hn]
    · simp [timerCleared, hseq, hl, hn]
  | startHold =>
    have hseq : s.seq = 0x05#6 := seq_eq_of_decodeSeq hd rfl
    rcases execStartHold_cases h with ⟨-, rfl⟩ | ⟨-, rfl⟩ <;> simp [timerCleared, hseq]
  | idleWait | startDrive | releaseHigh | releaseFloat | completeHold | failedHold =>
    cases h
    simp [timerCleared, seq_eq_of_decodeSeq hd rfl]
  | cmdStart | hostRd _ | bitdec _ | pack _ _ | chksum _ _ _ _ _ =>
    cases decodeSeq_eq_ok_iff.1 hd

/-- Settles O43: only a core step executes an op, and there the port says whether the op clears the count. -/
theorem timerClearPortMarksTheResets : Obligations.TimerClearPortMarksTheResets := by
  unfold Obligations.TimerClearPortMarksTheResets
  intro s t m a h
  have hcore (hm : m = .core) : t.ticks = if timerCleared .core s then 0 else s.ticks := by
    subst hm
    obtain ⟨hn, i, hd, he⟩ := takeStep_core_cases h
    exact exec_ticks_of_core (by simp [reservedFault, hd, hn]) hd he
  constructor
  · intro (hclr : timerCleared m s = true)
    obtain ⟨rfl, -⟩ := executesOp_eq_true_iff.1 (Bool.and_eq_true_iff.1 hclr).1
    exact ⟨rfl, by rw [hcore rfl, if_pos hclr]⟩
  · rintro rfl (hclr : timerCleared .core s = false)
    simpa [hclr] using hcore rfl

theorem delayRequested_eq_true_iff {m : Move} {s : State} :
    delayRequested m s = true ↔ m = .core ∧ reservedFault s = none ∧ s.seq = 0x04#6 := by
  rw [delayRequested, Bool.and_eq_true_iff, executesOp_eq_true_iff, decide_eq_true_iff, and_assoc]

/-- START.DRIVE is run by no move but the core's, at its own word, where the port `dly_req` is 1. -/
theorem delayRequested_of_startDrive {m : Move} {s : State} {c : Code} (hr : reservedFault s = none)
    (hf : fetch m s = some c) (hd : decode c = .ok .startDrive) : delayRequested m s = true := by
  obtain ⟨hm, hseq⟩ : m = .core ∧ decodeSeq s.seq = .ok .startDrive := by simpa using fetch_cases hf hd
  exact delayRequested_eq_true_iff.2 ⟨hm, hr, seq_eq_of_decodeSeq hseq rfl⟩

theorem exec_startDrive_of_delayRequested {m : Move} {s t : State} (hreq : delayRequested m s = true)
    (h : takeStep m s = .next t) : m = .core ∧ exec .startDrive s = .next t := by
  obtain ⟨rfl, -, hseq⟩ := delayRequested_eq_true_iff.1 hreq
  obtain ⟨-, i, hd, he⟩ := takeStep_core_cases h
  rw [hseq] at hd
  cases hd
  exact ⟨rfl, he⟩

/-- Settles O54: the port marks the steps that run START.DRIVE, the one instruction that requests the delay. -/
theorem delayRequestPortMarksTheRequests : Obligations.DelayRequestPortMarksTheRequests := by
  unfold Obligations.DelayRequestPortMarksTheRequests
  intro s t m a h
  constructor
  · intro hreq
    obtain ⟨hm, he⟩ := exec_startDrive_of_delayRequested hreq h
    cases he
    exact ⟨hm, rfl, rfl⟩
  · intro hreq
    have hreq : ¬ delayRequested m s = true := ne_true_of_eq_false hreq
    rcases takeStep_next_cases h with ⟨hm, rfl⟩ | ⟨-, rfl⟩ | ⟨v, -, rfl⟩ | ⟨-, rfl⟩ | ⟨_, _, -, -, rfl⟩ |
      ⟨c, i, hf, hd, he, hr⟩
    · exact ⟨fun hne => absurd hm hne, by simp⟩
    · exact ⟨fun _ => rfl, id⟩
    · exact ⟨fun _ => rfl, id⟩
    · exact ⟨fun _ => rfl, by simp⟩
    · exact ⟨fun _ => rfl, id⟩
    · have hi : i ≠ .startDrive := by
        rintro rfl
        exact hreq (delayRequested_of_startDrive hr hf hd)
      obtain ⟨-, -, hdly, -⟩ := pinLatchesHaveThreeWriters i s t he
      obtain ⟨hpending, hms⟩ := hdly hi
      exact ⟨fun _ => hms, fun ht => hpending ▸ ht⟩

/-! ### The environment's steps -/

/-- In a state without a reserved value a scheduled move is simply taken off the schedule and run. -/
theorem step_of_legal {s : State} {m : Move} {rest : List Move} (hp : PositionLegal s) (hn : s.n.toNat < 40)
    (hm : s.moves = m :: rest) : step s = runMove m { s with moves := rest } := by
  have hr : reservedFault { s with moves := rest } = none := reservedFault_of_legal (s := s) hp hn
  rw [step_of_cons hm, takeStep_of_legal hr]

/-- A word that is no command changes nothing (spec/20_memory.md R50). -/
theorem runCode_of_no_command {c : Code} (s : State) (h : decode c = .error .notACommand) : runCode c s = .next s := by
  simp only [runCode, h]

/-- Settles O22: in a legal state the move runs, and R64 says which host writes are no command. -/
theorem environmentStepsDoWhatTheirAgentsDo : Obligations.EnvironmentStepsDoWhatTheirAgentsDo := by
  unfold Obligations.EnvironmentStepsDoWhatTheirAgentsDo
  intro s rest hn hp
  obtain ⟨-, hno, -⟩ := hostAndFunctionWordsDecode
  refine ⟨step_of_legal hp hn, fun v => step_of_legal hp hn, step_of_legal hp hn, fun a v hm h => ?_⟩
  rw [step_of_legal hp hn hm]
  exact runCode_of_no_command _ (hno a v h)

end Sys2Proof.Machine

/-! ### Reset, and the waits that hang or time out

The rules of spec/70_reset_and_hazards.md: `rst` reaches every register from any state (R150), an unbounded wait goes on as
long as no poll finds the line low (R158), and a budgeted one ends at its first poll past the budget (R160, R161). -/

namespace Sys2Proof.Machine

/-! ### The reset step -/

/-- `rst` is the one move a reserved value does not stop (spec/93_implementation_defined.md U5). -/
theorem takeStep_rst (s : State) : takeStep .rst s = .next (applyReset s) := if_pos rfl

/-- Settles O6: no guard stands before the reset, which sets each register. -/
theorem rstStepGivesResetValues : Obligations.RstStepGivesResetValues := by
  unfold Obligations.RstStepGivesResetValues
  intro s rest hmoves
  refine ⟨applyReset { s with moves := rest }, (step_of_cons hmoves).trans (takeStep_rst _), ?_⟩
  simp

/-! ### The unbounded waits -/

section
variable {s : State} {p : BitVec 4} {q : BitVec 2} {i : Instr} (hat : s.isAt p q)
  (hop : decodeSeq (seqWord p q) = .ok i ∧ p ≠ 0#4 ∧ p ≠ 7#4 ∧ p ≠ 8#4)
include hat hop

theorem busy_of_isAt : busy s = true := by
  rw [busy_eq_decide, hat.1]
  exact decide_eq_true hop.2

theorem reservedFault_of_isAt (hn : s.n.toNat < 40) : reservedFault s = none :=
  reservedFault_of_legal (positionLegal_of_isAt hat (legalWord_of_encode (decodeSeq_eq_ok_iff.1 hop.1))) hn

/-- An op that waits while it finds the line high, at core steps that all find it high: whatever the gaps hold, the one
after the last core step among them, only the environment changes. -/
theorem runMoves_while_high {gs : List Gap} {last : Gap} (hn : s.n.toNat < 40)
    (hwait : ∀ u : State, u.line = .high → exec i u = .next u) (hok : ∀ g ∈ gs, g.ok) (hlast : last.ok)
    (hl : ∀ l ∈ linesAt s.line gs, l = .high) :
    ∃ t, runMoves (coreSteps gs ++ last) s = .next t ∧ EnvOnly s t := by
  obtain ⟨u, hrun, hu⟩ := runsTo_waits hat hn hop hok fun pre hpre hne w hw =>
    hwait w (hl _ (hw.line ▸ lineAfter_mem_linesAt hpre hne _))
  have hr : reservedFault u = none := hu.env.reservedFault.trans (reservedFault_of_isAt hat hop hn)
  have hb : busy u = true := hu.env.busy.trans (busy_of_isAt hat hop)
  obtain ⟨t, ht, hgap⟩ := runMoves_gap_afterGaps hr hb hlast
  exact ⟨t, (runMoves_append _ _ _ _ hrun).trans ht, hu.env.trans hgap.env⟩

end

/-- The ops of the two unbounded waits wait while the line is high (spec/41_handshake.md R95, spec/42_bitstream.md R103). -/
theorem unboundedWait_op {s : State} (hw : s.isAt 2#4 2#2 ∨ s.isAt 6#4 0#2) :
    ∃ p q i, s.isAt p q ∧ (decodeSeq (seqWord p q) = .ok i ∧ p ≠ 0#4 ∧ p ≠ 7#4 ∧ p ≠ 8#4) ∧
      ∀ u : State, u.line = .high → exec i u = .next u := by
  rcases hw with hat | hat
  · exact ⟨_, _, .releasePoll, hat, ⟨rfl, by decide⟩, fun _ => execReleasePoll_of_high⟩
  · exact ⟨_, _, .pulsePoll, hat, ⟨rfl, by decide⟩, fun _ => execPulsePoll_of_high⟩

/-- Settles O48: polls that find the line high leave to the environment all that changes. -/
theorem unboundedWaitsHangForEver : Obligations.UnboundedWaitsHangForEver := by
  unfold Obligations.UnboundedWaitsHangForEver
  intro s gs last rest hn hw hok hlast hl hmoves
  obtain ⟨p, q, i, hat, hop, hwait⟩ := unboundedWait_op (s := { s with moves := rest }) hw
  obtain ⟨t, hrun, henv⟩ := runMoves_while_high hat hop hn hwait hok hlast hl
  exact ⟨t, run_of_runMoves hmoves hrun, henv.phase, henv.sub, henv.n, henv.frame, henv.outTag, henv.outStage, henv.dir,
    henv.lvl, henv.busy.trans (busy_of_isAt hat hop), henv.moves⟩

/-! ### The budgeted waits -/

theorem gapTicks_append (gs gs' : List Gap) : gapTicks (gs ++ gs') = gapTicks gs + gapTicks gs' := by
  simp [gapTicks]

theorem gapTicks_mono {pre gs : List Gap} (h : pre <+: gs) : gapTicks pre ≤ gapTicks gs := by
  obtain ⟨rest, rfl⟩ := h
  rw [gapTicks_append]
  exact Nat.le_add_right _ _

/-- A count that starts within a budget and ends past it passes it in one of the gaps. -/
theorem exists_gap_past_budget {gs : List Gap} {c budget : Nat} (hc : c ≤ budget) (h : budget < c + gapTicks gs) :
    ∃ pre g post, gs = pre ++ g :: post ∧ c + gapTicks pre ≤ budget ∧ budget < c + gapTicks pre + g.ticks := by
  induction gs generalizing c with
  | nil => exact absurd h (Nat.not_lt.2 hc)
  | cons g gs ih =>
    have hsum : gapTicks (g :: gs) = g.ticks + gapTicks gs := gapTicks_append [g] gs
    by_cases hg : budget < c + g.ticks
    · exact ⟨[], g, gs, rfl, hc, hg⟩
    · obtain ⟨pre, g', post, rfl, hpre, hpast⟩ := ih (c := c + g.ticks) (by omega) (by omega)
      have hsum' : gapTicks (g :: pre) = g.ticks + gapTicks pre := gapTicks_append [g] pre
      exact ⟨g :: pre, g', post, rfl, by omega, by omega⟩

section
variable {s : State} {awaited : Level} {budget : Nat} {stage : Stage} (hw : BudgetedWait s awaited budget stage)
include hw

theorem BudgetedWait.of_envOnly {u : State} (h : EnvOnly s u) : BudgetedWait u awaited budget stage := by
  rw [BudgetedWait, h.sub, h.phase, h.params]
  exact hw

/-- Each budgeted wait has an op, and stands in none of the resting phases. -/
theorem BudgetedWait.exists_op :
    ∃ i, decodeSeq (seqWord s.phase 0#2) = .ok i ∧ s.phase ≠ 0#4 ∧ s.phase ≠ 7#4 ∧ s.phase ≠ 8#4 := by
  obtain ⟨-, ⟨hp, -⟩ | ⟨hp, -⟩ | ⟨hp, -⟩⟩ := hw
  · rw [hp]
    exact ⟨.ackhighPoll, rfl, by decide⟩
  · rw [hp]
    exact ⟨.acklowPoll, rfl, by decide⟩
  · rw [hp]
    exact ⟨.bithighPoll, rfl, by decide⟩

/-- What that op answers to a poll that does not find the level. -/
theorem BudgetedWait.exec_of_line_ne {i : Instr} (hd : decodeSeq (seqWord s.phase 0#2) = .ok i) (hn : s.n.toNat < 40)
    (hl : s.line ≠ awaited) : exec i s = .next (if budget < s.ticks then raiseTimeout stage s else s) := by
  have hcore : takeStep .core s = exec i s :=
    takeStep_core_of_isAt ⟨rfl, hw.1⟩ hn hd (legalWord_of_encode (decodeSeq_eq_ok_iff.1 hd))
  rw [← hcore, hw.takeStep_core_of_line_ne hn hl]

/-- The first poll past the budget aborts the attempt. The polls before it read at most the budget; the gap before it is
short enough for its own reading not to have wrapped (spec/70_reset_and_hazards.md R160). -/
theorem BudgetedWait.runsTo_timeout {gs : List Gap} {g : Gap} (hn : s.n.toNat < 40) (hok : ∀ x ∈ gs ++ [g], x.ok)
    (hl : ∀ l ∈ linesAt s.line (gs ++ [g]), l ≠ awaited) (hwithin : s.ticks + gapTicks gs ≤ budget)
    (hpast : budget < s.ticks + gapTicks gs + g.ticks) (hgap : g.ticks ≤ s.params.tickMax - budget) :
    ∃ u, RunsTo (gs ++ [g]) s (raiseTimeout stage u) := by
  obtain ⟨i, hop⟩ := hw.exists_op
  have htotal : s.ticks + gapTicks (gs ++ [g]) < 2 ^ s.params.tickW := by
    have hmax : s.params.tickMax = 2 ^ s.params.tickW - 1 := rfl
    have hsum : gapTicks (gs ++ [g]) = gapTicks gs + g.ticks := gapTicks_append gs [g]
    omega
  have hread : ∀ pre, pre <+: gs ++ [g] → ∀ u, AfterGaps s pre u → u.ticks = s.ticks + gapTicks pre := by
    intro pre hpre u hu
    have hle := gapTicks_mono hpre
    rw [hu.ticks (by omega), Params.wrap_of_lt (by omega)]
  have hpoll : ∀ pre, pre <+: gs ++ [g] → pre ≠ [] → ∀ u, AfterGaps s pre u →
      exec i u = .next (if budget < s.ticks + gapTicks pre then raiseTimeout stage u else u) := by
    intro pre hpre hne u hu
    have hd : decodeSeq (seqWord u.phase 0#2) = .ok i := hu.env.phase ▸ hop.1
    rw [← hread pre hpre u hu]
    exact (hw.of_envOnly hu.env).exec_of_line_ne hd (hu.env.n ▸ hn)
      (hl _ (hu.line ▸ lineAfter_mem_linesAt hpre hne _))
  obtain ⟨u, hu, hrun⟩ := runsTo_wait_then ⟨rfl, hw.1⟩ hn hop hok fun pre hpre hne w hgaps => by
    have hle := gapTicks_mono hpre
    rw [hpoll pre (hpre.trans ⟨[g], rfl⟩) hne w hgaps, if_neg (by omega)]
  refine ⟨u, hrun _ ?_⟩
  rw [hpoll _ ⟨[], List.append_nil _⟩ (by simp) u hu, if_pos (by rw [gapTicks_append, ← Nat.add_assoc]; exact hpast)]

end

/-- Settles O49: the abort comes at the core step after the gap in which the count passes the budget. -/
theorem budgetedWaitsEndInTimeout : Obligations.BudgetedWaitsEndInTimeout := by
  unfold Obligations.BudgetedWaitsEndInTimeout
  intro s awaited budget stage gs rest hw hn hok hl hstart hgap hpast hmoves
  obtain ⟨pre, g, post, rfl, hwithin, hover⟩ := exists_gap_past_budget hstart hpast
  have hsplit : pre ++ g :: post = (pre ++ [g]) ++ post := by simp
  rw [hsplit] at hok hl hmoves ⊢
  rw [coreSteps_append, List.append_assoc] at hmoves
  obtain ⟨u, hrun⟩ := BudgetedWait.runsTo_timeout (s := { s with moves := coreSteps post ++ rest }) hw hn
    (fun x hx => hok x (List.mem_append_left _ hx))
    (fun l hx => hl l (by rw [linesAt_append]; exact List.mem_append_left _ hx)) hwithin hover (hgap g (by simp))
  have hlength : (coreSteps (pre ++ [g])).length ≤ (coreSteps ((pre ++ [g]) ++ post)).length := by
    rw [coreSteps_append _ post, List.length_append]
    exact Nat.le_add_right _ _
  exact ⟨_, _, hlength, run_of_runMoves hmoves hrun, ⟨rfl, rfl⟩, rfl, rfl, rfl, rfl⟩

end Sys2Proof.Machine
